-- ==== Sys2Proof/Word.lean ====
section
/-! DEFINITION. The widths of the machine's data (00_scope.md R6, R8; 30_encoding.md R81). Every value is an
unsigned integer of its width: no register, immediate or memory byte of this machine is signed. -/

namespace Sys2Proof

/-- A memory cell, a general register, a timer, the operand NN (R6 REG_WIDTH, R50). -/
abbrev Byte := BitVec 8

/-- An instruction word, `I`, `pc`, a call-stack entry (R6 PC_WIDTH, I_WIDTH, INSN_WIDTH). -/
abbrev Word := BitVec 16

/-- The 12-bit address operand NNN (R81). -/
abbrev Addr := BitVec 12

/-- The 4-bit operand N (R81). -/
abbrev Nibble := BitVec 4

/-- A general register's 4-bit index, the operands X and Y (R20, R81). -/
abbrev RegIdx := BitVec 4

end Sys2Proof
end

