-- ==== Sys2Proof/Syntax.lean ====
section
/-! DEFINITION. The instruction set: one constructor for each of the 34 rows of spec/opcode_table.json, in the
order of 30_encoding.md R86. The operands are the fields of R81 that the row has. The bits a row ignores are kept
(the low nibble of 5XYn and 9XYn, decision D7; the Y field of 8XY6 and 8XYE, R149, R151), so that no bit of a word
is lost between decoding and encoding (log entry 7). The words that match no row are no-ops (R84) and are no
instructions of this type: `Machine.step` gives them their effect (log entry 8). -/

namespace Sys2Proof

inductive Instr where
  /-- 00E0 clear-screen (R190). -/
  | clearScreen
  /-- 00EE return (R110). -/
  | ret
  /-- 1NNN jump (R111). -/
  | jump (nnn : Addr)
  /-- 2NNN call (R112). -/
  | call (nnn : Addr)
  /-- 3XNN skip-eq-imm (R113). -/
  | skipEqImm (x : RegIdx) (nn : Byte)
  /-- 4XNN skip-ne-imm (R114). -/
  | skipNeImm (x : RegIdx) (nn : Byte)
  /-- 5XYn skip-eq-reg (R115); n is ignored. -/
  | skipEqReg (x y : RegIdx) (n : Nibble)
  /-- 6XNN load-imm (R141). -/
  | loadImm (x : RegIdx) (nn : Byte)
  /-- 7XNN add-imm (R142). -/
  | addImm (x : RegIdx) (nn : Byte)
  /-- 8XY0 move (R143). -/
  | move (x y : RegIdx)
  /-- 8XY1 or (R144). -/
  | orReg (x y : RegIdx)
  /-- 8XY2 and (R145). -/
  | andReg (x y : RegIdx)
  /-- 8XY3 xor (R146). -/
  | xorReg (x y : RegIdx)
  /-- 8XY4 add (R147). -/
  | add (x y : RegIdx)
  /-- 8XY5 sub (R148). -/
  | sub (x y : RegIdx)
  /-- 8XY6 shift-right (R149); Y is ignored. -/
  | shiftRight (x y : RegIdx)
  /-- 8XY7 sub-reverse (R150). -/
  | subReverse (x y : RegIdx)
  /-- 8XYE shift-left (R151); Y is ignored. -/
  | shiftLeft (x y : RegIdx)
  /-- 9XYn skip-ne-reg (R116); n is ignored. -/
  | skipNeReg (x y : RegIdx) (n : Nibble)
  /-- ANNN load-index (R171). -/
  | loadIndex (nnn : Addr)
  /-- BNNN jump-offset (R117). -/
  | jumpOffset (nnn : Addr)
  /-- CXNN random (R152). -/
  | random (x : RegIdx) (nn : Byte)
  /-- DXYN draw (R192). -/
  | draw (x y : RegIdx) (n : Nibble)
  /-- EX9E skip-if-key (R210). -/
  | skipIfKey (x : RegIdx)
  /-- EXA1 skip-if-not-key (R211). -/
  | skipIfNotKey (x : RegIdx)
  /-- FX07 read-delay (R213). -/
  | readDelay (x : RegIdx)
  /-- FX0A wait-key (R212). -/
  | waitKey (x : RegIdx)
  /-- FX15 write-delay (R214). -/
  | writeDelay (x : RegIdx)
  /-- FX18 write-sound (R215). -/
  | writeSound (x : RegIdx)
  /-- FX1E add-index (R172). -/
  | addIndex (x : RegIdx)
  /-- FX29 font-address (R173). -/
  | fontAddress (x : RegIdx)
  /-- FX33 bcd (R174). -/
  | bcd (x : RegIdx)
  /-- FX55 store-regs (R175). -/
  | storeRegs (x : RegIdx)
  /-- FX65 load-regs (R176). -/
  | loadRegs (x : RegIdx)
  deriving DecidableEq, Repr

end Sys2Proof
end

