-- ==== Sys2Proof/WellFormed.lean ====
section
/-! DEFINITION. Which terms of `Instr` the spec's assembly language can write (30_encoding.md R95, R96). The
operand types already hold the ranges R96 checks (NN at most 255, NNN at most 0xFFF, N at most 15, sixteen
registers). What is left is R96's last line: "`skip-eq-reg` and `skip-ne-reg` always assemble with N = 0". The
hardware runs the other low nibbles too (decision D7), and no claim about what the machine does is restricted to
well-formed instructions (log entry 7). -/

namespace Sys2Proof

/-- R96: an instruction the assembler emits. -/
def Instr.wellFormed : Instr → Bool
  | .skipEqReg _ _ n => n == 0#4
  | .skipNeReg _ _ n => n == 0#4
  | .clearScreen | .ret | .jump _ | .call _ | .skipEqImm _ _ | .skipNeImm _ _ | .loadImm _ _ | .addImm _ _
  | .move _ _ | .orReg _ _ | .andReg _ _ | .xorReg _ _ | .add _ _ | .sub _ _ | .shiftRight _ _
  | .subReverse _ _ | .shiftLeft _ _ | .loadIndex _ | .jumpOffset _ | .random _ _ | .draw _ _ _
  | .skipIfKey _ | .skipIfNotKey _ | .readDelay _ | .waitKey _ | .writeDelay _ | .writeSound _
  | .addIndex _ | .fontAddress _ | .bcd _ | .storeRegs _ | .loadRegs _ => true

end Sys2Proof
end

