-- ==== Sys2Proof/Decode.lean ====
section
/-! DEFINITION. The instruction encoding (30_encoding.md): the fields of a word (R81), the opcode map as the table
it is (R86), the decoder over words and over bytes (R83, R90, R54), the no-op spaces by name (R84), and the
encoder. -/

namespace Sys2Proof

/-! ### Fields of an instruction word (R81) -/

/-- The family, `w[15:12]`. -/
def family (w : Word) : Nibble := w.extractLsb' 12 4

/-- The register index X, `w[11:8]`. -/
def fieldX (w : Word) : RegIdx := w.extractLsb' 8 4

/-- The register index Y, `w[7:4]`. -/
def fieldY (w : Word) : RegIdx := w.extractLsb' 4 4

/-- The nibble operand N, `w[3:0]`. -/
def fieldN (w : Word) : Nibble := w.extractLsb' 0 4

/-- The byte operand NN, `w[7:0]`. -/
def fieldNN (w : Word) : Byte := w.extractLsb' 0 8

/-- The address operand NNN, `w[11:0]`. -/
def fieldNNN (w : Word) : Addr := w.extractLsb' 0 12

/-! ### The opcode map (R86) -/

/-- One row of R86: `w & mask = value` selects it (the table's column `match`), and `make` takes the row's
operands from the word. -/
structure OpcodeRow where
  mnemonic : String
  value : Word
  mask : Word
  make : Word → Instr

/-- "`match` and `mask` select the row: `w & mask = match`" (R86). -/
def OpcodeRow.selects (r : OpcodeRow) (w : Word) : Bool := w &&& r.mask == r.value

/-- Rows 1 to 9 of R86. -/
def opcodeRowsLow : List OpcodeRow := [
  ⟨"clear-screen", 0x00E0#16, 0xFFFF#16, fun _ => .clearScreen⟩,
  ⟨"return", 0x00EE#16, 0xFFFF#16, fun _ => .ret⟩,
  ⟨"jump", 0x1000#16, 0xF000#16, fun w => .jump (fieldNNN w)⟩,
  ⟨"call", 0x2000#16, 0xF000#16, fun w => .call (fieldNNN w)⟩,
  ⟨"skip-eq-imm", 0x3000#16, 0xF000#16, fun w => .skipEqImm (fieldX w) (fieldNN w)⟩,
  ⟨"skip-ne-imm", 0x4000#16, 0xF000#16, fun w => .skipNeImm (fieldX w) (fieldNN w)⟩,
  ⟨"skip-eq-reg", 0x5000#16, 0xF000#16, fun w => .skipEqReg (fieldX w) (fieldY w) (fieldN w)⟩,
  ⟨"load-imm", 0x6000#16, 0xF000#16, fun w => .loadImm (fieldX w) (fieldNN w)⟩,
  ⟨"add-imm", 0x7000#16, 0xF000#16, fun w => .addImm (fieldX w) (fieldNN w)⟩]

/-- Rows 10 to 18 of R86: family 8, selected by N. -/
def opcodeRowsAlu : List OpcodeRow := [
  ⟨"move", 0x8000#16, 0xF00F#16, fun w => .move (fieldX w) (fieldY w)⟩,
  ⟨"or", 0x8001#16, 0xF00F#16, fun w => .orReg (fieldX w) (fieldY w)⟩,
  ⟨"and", 0x8002#16, 0xF00F#16, fun w => .andReg (fieldX w) (fieldY w)⟩,
  ⟨"xor", 0x8003#16, 0xF00F#16, fun w => .xorReg (fieldX w) (fieldY w)⟩,
  ⟨"add", 0x8004#16, 0xF00F#16, fun w => .add (fieldX w) (fieldY w)⟩,
  ⟨"sub", 0x8005#16, 0xF00F#16, fun w => .sub (fieldX w) (fieldY w)⟩,
  ⟨"shift-right", 0x8006#16, 0xF00F#16, fun w => .shiftRight (fieldX w) (fieldY w)⟩,
  ⟨"sub-reverse", 0x8007#16, 0xF00F#16, fun w => .subReverse (fieldX w) (fieldY w)⟩,
  ⟨"shift-left", 0x800E#16, 0xF00F#16, fun w => .shiftLeft (fieldX w) (fieldY w)⟩]

/-- Rows 19 to 25 of R86. -/
def opcodeRowsHigh : List OpcodeRow := [
  ⟨"skip-ne-reg", 0x9000#16, 0xF000#16, fun w => .skipNeReg (fieldX w) (fieldY w) (fieldN w)⟩,
  ⟨"load-index", 0xA000#16, 0xF000#16, fun w => .loadIndex (fieldNNN w)⟩,
  ⟨"jump-offset", 0xB000#16, 0xF000#16, fun w => .jumpOffset (fieldNNN w)⟩,
  ⟨"random", 0xC000#16, 0xF000#16, fun w => .random (fieldX w) (fieldNN w)⟩,
  ⟨"draw", 0xD000#16, 0xF000#16, fun w => .draw (fieldX w) (fieldY w) (fieldN w)⟩,
  ⟨"skip-if-key", 0xE09E#16, 0xF0FF#16, fun w => .skipIfKey (fieldX w)⟩,
  ⟨"skip-if-not-key", 0xE0A1#16, 0xF0FF#16, fun w => .skipIfNotKey (fieldX w)⟩]

/-- Rows 26 to 34 of R86: family F, selected by NN. -/
def opcodeRowsMisc : List OpcodeRow := [
  ⟨"read-delay", 0xF007#16, 0xF0FF#16, fun w => .readDelay (fieldX w)⟩,
  ⟨"wait-key", 0xF00A#16, 0xF0FF#16, fun w => .waitKey (fieldX w)⟩,
  ⟨"write-delay", 0xF015#16, 0xF0FF#16, fun w => .writeDelay (fieldX w)⟩,
  ⟨"write-sound", 0xF018#16, 0xF0FF#16, fun w => .writeSound (fieldX w)⟩,
  ⟨"add-index", 0xF01E#16, 0xF0FF#16, fun w => .addIndex (fieldX w)⟩,
  ⟨"font-address", 0xF029#16, 0xF0FF#16, fun w => .fontAddress (fieldX w)⟩,
  ⟨"bcd", 0xF033#16, 0xF0FF#16, fun w => .bcd (fieldX w)⟩,
  ⟨"store-regs", 0xF055#16, 0xF0FF#16, fun w => .storeRegs (fieldX w)⟩,
  ⟨"load-regs", 0xF065#16, 0xF0FF#16, fun w => .loadRegs (fieldX w)⟩]

/-- R86: the 34 rows, in the spec's order. -/
def opcodeRows : List OpcodeRow :=
  opcodeRowsLow ++ opcodeRowsAlu ++ opcodeRowsHigh ++ opcodeRowsMisc

/-! ### Decoding (R83, R84, R90) -/

/-- R90: decode is a pure function of the word. `none` is a word of R84's no-op spaces. -/
def decodeWord (w : Word) : Option Instr := (opcodeRows.find? (·.selects w)).map (·.make w)

/-- Why bytes give no instruction: fewer than the two bytes every instruction takes (R80), or one of the four
no-op spaces of R84, by name. -/
inductive DecodeReject where
  | truncated
  | noOpFamily0
  | noOpFamily8
  | noOpFamilyE
  | noOpFamilyF
  deriving DecidableEq, Repr

/-- The no-op space a word that matches no row lies in (R84): only families 0, 8, E and F leave words over. -/
def noOpSpace (w : Word) : DecodeReject :=
  if family w = 0x0#4 then .noOpFamily0
  else if family w = 0x8#4 then .noOpFamily8
  else if family w = 0xE#4 then .noOpFamilyE
  else .noOpFamilyF

/-- The decoder over bytes, lowest address first: big-endian (R53), exactly 2 bytes consumed (R80). -/
def decode : List Byte → Except DecodeReject (Instr × List Byte)
  | hi :: lo :: rest =>
    match decodeWord (hi ++ lo) with
    | some i => .ok (i, rest)
    | none => .error (noOpSpace (hi ++ lo))
  | [_] => .error .truncated
  | [] => .error .truncated

/-! ### Encoding (the "Encoding" line of each instruction's rule, for example `0x3000 | X << 8 | NN`) -/

/-- `X << 8`. -/
def atX (x : RegIdx) : Word := x.zeroExtend 16 <<< 8

/-- `Y << 4`. -/
def atY (y : RegIdx) : Word := y.zeroExtend 16 <<< 4

/-- N in the low 4 bits. -/
def atN (n : Nibble) : Word := n.zeroExtend 16

/-- NN in the low 8 bits. -/
def atNN (nn : Byte) : Word := nn.zeroExtend 16

/-- NNN in the low 12 bits. -/
def atNNN (nnn : Addr) : Word := nnn.zeroExtend 16

/-- The word of an instruction. -/
def encode : Instr → Word
  | .clearScreen => 0x00E0#16
  | .ret => 0x00EE#16
  | .jump nnn => 0x1000#16 ||| atNNN nnn
  | .call nnn => 0x2000#16 ||| atNNN nnn
  | .skipEqImm x nn => 0x3000#16 ||| atX x ||| atNN nn
  | .skipNeImm x nn => 0x4000#16 ||| atX x ||| atNN nn
  | .skipEqReg x y n => 0x5000#16 ||| atX x ||| atY y ||| atN n
  | .loadImm x nn => 0x6000#16 ||| atX x ||| atNN nn
  | .addImm x nn => 0x7000#16 ||| atX x ||| atNN nn
  | .move x y => 0x8000#16 ||| atX x ||| atY y
  | .orReg x y => 0x8001#16 ||| atX x ||| atY y
  | .andReg x y => 0x8002#16 ||| atX x ||| atY y
  | .xorReg x y => 0x8003#16 ||| atX x ||| atY y
  | .add x y => 0x8004#16 ||| atX x ||| atY y
  | .sub x y => 0x8005#16 ||| atX x ||| atY y
  | .shiftRight x y => 0x8006#16 ||| atX x ||| atY y
  | .subReverse x y => 0x8007#16 ||| atX x ||| atY y
  | .shiftLeft x y => 0x800E#16 ||| atX x ||| atY y
  | .skipNeReg x y n => 0x9000#16 ||| atX x ||| atY y ||| atN n
  | .loadIndex nnn => 0xA000#16 ||| atNNN nnn
  | .jumpOffset nnn => 0xB000#16 ||| atNNN nnn
  | .random x nn => 0xC000#16 ||| atX x ||| atNN nn
  | .draw x y n => 0xD000#16 ||| atX x ||| atY y ||| atN n
  | .skipIfKey x => 0xE09E#16 ||| atX x
  | .skipIfNotKey x => 0xE0A1#16 ||| atX x
  | .readDelay x => 0xF007#16 ||| atX x
  | .waitKey x => 0xF00A#16 ||| atX x
  | .writeDelay x => 0xF015#16 ||| atX x
  | .writeSound x => 0xF018#16 ||| atX x
  | .addIndex x => 0xF01E#16 ||| atX x
  | .fontAddress x => 0xF029#16 ||| atX x
  | .bcd x => 0xF033#16 ||| atX x
  | .storeRegs x => 0xF055#16 ||| atX x
  | .loadRegs x => 0xF065#16 ||| atX x

/-- A word as the two bytes memory holds, the high byte at the lower address (R53, R97). -/
def wordBytes (w : Word) : List Byte := [w.extractLsb' 8 8, w.extractLsb' 0 8]

/-- The bytes of an instruction in memory. -/
def encodeBytes (i : Instr) : List Byte := wordBytes (encode i)

/-- The word whose low `nbits` bits are those of `w` and whose other bits are 0: the instruction the host names by
the number `w` (every row of the table has 16 bits, and bit 0 is the word's least significant bit, R7). -/
def tableWord (nbits w : Nat) : Word := BitVec.ofNat 16 (w % 2 ^ nbits)

/-- What the decoder reads from the bytes of `tableWord nbits w`. -/
def decodeTableWord (nbits w : Nat) : Option Instr :=
  match decode (wordBytes (tableWord nbits w)) with
  | .ok (i, _) => some i
  | .error _ => none

end Sys2Proof
end

