-- ==== Sys2Proof/Config.lean ====
section
/-! DEFINITION. The parameters of the block (00_scope.md R6) that a rule names by a value of its own, and the one
free value of the machine, the random byte (R12, R152, R247; 93_implementation_defined.md U7). FONT_DATA is in
Machine/Font.lean. -/

namespace Sys2Proof

/-- PROGRAM_BASE: the load address and the entry point (R6, R58, R271). -/
abbrev Config.programBase : Nat := 0x200

/-- MAX_PROGRAM: 4096 - 512 bytes (R6, R273, R274). -/
abbrev Config.maxProgram : Nat := 3584

/-- The randomness collaborator's free source: the n-th byte drawn from it. It has no body, so nothing can be
proved about a byte it gives: "an 8-bit value in 0..255 under no law" (R12), "The model puts no law on the draw"
(R152). DESIGN CHOICE, log entry 2: safe. -/
opaque Config.randomByte : Nat → BitVec 8

end Sys2Proof
end

