-- ==== Sys2Proof/Machine/State.lean ====
section
/-! DEFINITION. The state of the machine as plain data (10_state.md), its reset values (R42), and the reasons a
step could stop. -/

namespace Sys2Proof.Machine

/-- The run state (R36): "`run_state`: one of {Running, Paused, Halted}". Only host commands change it. -/
inductive RunState where
  | running
  | paused
  | halted
  deriving DecidableEq, Repr

/-- R36's encodings: Running 0, Paused 1, Halted 2 (decision D22). Encoding 3 is never held. -/
def RunState.code : RunState → BitVec 2
  | .running => 0
  | .paused => 1
  | .halted => 2

/-- The values of the fault register (R34), the spec's sticky error state (decision D10). -/
inductive FaultCode where
  /-- No fault; set by reset only. -/
  | none
  /-- 2NNN with sp = 12 (R29). -/
  | stackOverflow
  /-- 00EE with sp = 0 (R30). -/
  | stackUnderflow
  /-- EX9E or EXA1 with reg[X] > 0xF (R210, R211). -/
  | keyIndexRange
  deriving DecidableEq, Repr

/-- R34's encodings. -/
def FaultCode.code : FaultCode → BitVec 2
  | .none => 0
  | .stackOverflow => 1
  | .stackUnderflow => 2
  | .keyIndexRange => 3

/-- Memory as the list of the cells that differ from their reset contents, addresses strictly rising. -/
abbrev Memory := List Host.Cell

/-- The framebuffer (R33): 32 rows of 64 one-bit cells, row-major. Bit x of row y is the cell `fb[y][x]`. -/
abbrev Framebuffer := Vector (BitVec 64) 32

/-- Everything the spec gives the machine (R4, R20-R37), and the two fields of the model's own that carry the
random-byte input (R12, R41, R247; log entry 2). -/
structure State where
  /-- The 4096 cells (R50). -/
  mem : Memory
  /-- `reg[0x0]` to `reg[0xF]` (R20). -/
  regs : Vector Byte 16
  /-- The index register `I` (R23). -/
  index : Word
  /-- The program counter (R24). -/
  pc : Word
  /-- `stack[0]` to `stack[11]` (R28). -/
  stack : Vector Word 12
  /-- The number of stack entries in use, 0..12 (R28). -/
  sp : Fin 13
  /-- `delay_timer` (R31). -/
  delayTimer : Byte
  /-- `sound_timer` (R32). -/
  soundTimer : Byte
  /-- `fb` (R33). -/
  fb : Framebuffer
  /-- The input port `key[15:0]`: bit k is `keypad[k]`, 1 when pressed (R35, R245). -/
  keypad : BitVec 16
  /-- `run_state` (R36). -/
  runState : RunState
  /-- The sticky fault register (R34). -/
  fault : FaultCode
  /-- `IR`, the last fetched word (R37). -/
  ir : Word
  /-- MODEL's own: the bytes the randomness collaborator has supplied and no CXNN has consumed, oldest first. -/
  rndQueue : List Byte
  /-- MODEL's own: how many bytes have been drawn from the free source `Config.randomByte`. -/
  rndDrawn : Nat
  deriving DecidableEq, Repr

/-- R42, R270: the machine right after reset, with the parameter FONT_DATA at its default (`State.resetWith` takes any
table). Memory lists nothing: an unlisted cell reads as its reset contents (`Memory.unlisted`, the font and zeros). Both fields of the model's own are a DESIGN CHOICE (log entry 2). -/
def State.reset : State where
  mem := []
  regs := Vector.replicate 16 0x00#8
  index := 0x0000#16
  pc := 0x0200#16
  stack := Vector.replicate 12 0x0000#16
  sp := 0
  delayTimer := 0x00#8
  soundTimer := 0x00#8
  fb := Vector.replicate 32 0x0000000000000000#64
  keypad := 0x0000#16
  runState := .running
  fault := .none
  ir := 0x0000#16
  rndQueue := []
  rndDrawn := 0

/-- Reasons a step could stop the model with a fault: NONE EXISTS. Every fault of the spec is a next state in which
the fault register holds its code (R232), every address exists (R51), and every register holds a value (R42). Being
empty it can be raised by nothing, so it is safe (log entry 4). -/
inductive Fault where
  deriving DecidableEq, Repr

/-- Reasons a step could refuse. -/
inductive Refusal where
  /-- Raised by an arm of `exec` for an instruction without a meaning yet; safe. No arm raises it: every
  instruction of the table has its meaning. -/
  | notModelled (mnemonic : String)
  deriving DecidableEq, Repr

/-- What one instruction answers. -/
abbrev Result := Host.Outcome State Fault Refusal

end Sys2Proof.Machine
end

