-- ==== Sys2Proof/Machine/Font.lean ====
section
/-! DEFINITION. The parameter FONT_DATA (20_memory.md R59, 00_scope.md R6): its type, and its default table, which the
spec takes from general knowledge (decision D17, G1). PRESUMED, unsafe, log entry 1: a claim that reads a font byte of
`State.reset` holds for this table only. `State.resetWith` (Machine/HostCommands.lean) takes any table. -/

namespace Sys2Proof.Machine

/-- Glyphs 0 to 7 of R59, five bytes each, top row first. -/
def fontLow : List Byte := [
  0xF0, 0x90, 0x90, 0x90, 0xF0,
  0x20, 0x60, 0x20, 0x20, 0x70,
  0xF0, 0x10, 0xF0, 0x80, 0xF0,
  0xF0, 0x10, 0xF0, 0x10, 0xF0,
  0x90, 0x90, 0xF0, 0x10, 0x10,
  0xF0, 0x80, 0xF0, 0x10, 0xF0,
  0xF0, 0x80, 0xF0, 0x90, 0xF0,
  0xF0, 0x10, 0x20, 0x40, 0x40]

/-- Glyphs 8 to F of R59. -/
def fontHigh : List Byte := [
  0xF0, 0x90, 0xF0, 0x90, 0xF0,
  0xF0, 0x90, 0xF0, 0x10, 0xF0,
  0xF0, 0x90, 0xF0, 0x90, 0x90,
  0xE0, 0x90, 0xE0, 0x90, 0xE0,
  0xF0, 0x80, 0x80, 0x80, 0xF0,
  0xE0, 0x90, 0x90, 0x90, 0xE0,
  0xF0, 0x80, 0xF0, 0x80, 0xF0,
  0xF0, 0x80, 0xF0, 0x80, 0x80]

/-- The default table as its 80 bytes, glyph g at 5g to 5g + 4 (R59). -/
def defaultFontBytes : List Byte := fontLow ++ fontHigh

/-- The parameter FONT_DATA: 80 bytes, which stand at 0x000-0x04F after a reset (R42, R59, R60). -/
abbrev FontData := Vector Byte 80

/-- The default of the parameter (R59). -/
def defaultFont : FontData := ⟨defaultFontBytes.toArray, rfl⟩

end Sys2Proof.Machine
end

