-- ==== Sys2Proof/Machine/Ops.lean ====
section
/-! DEFINITION. The named operations over memory, registers and the other state: every read and write of a meaning
goes through one of these. Raising a fault (R11, R232) is here once, for every instruction that raises one. -/

namespace Sys2Proof.Machine

/-! ### Memory (20_memory.md) -/

/-- What a cell that memory does not list holds: its reset contents (R42, R58) with the default FONT_DATA at
0x000-0x04F, and zero elsewhere. A machine with another table lists the cells in which it differs. -/
def Memory.unlisted (a : Nat) : Byte := defaultFontBytes.getD a 0x00#8

/-- The cell at address `a` (already reduced, R51). -/
def Memory.read : Memory → Nat → Byte
  | [], a => Memory.unlisted a
  | (b, v) :: rest, a => if a = b then v else Memory.read rest a

/-- Cell `a` takes `v`. The canonical form is kept: addresses strictly rising, and a cell that holds its reset
contents is not listed. -/
def Memory.write : Memory → Nat → Byte → Memory
  | [], a, v => if v = Memory.unlisted a then [] else [(a, v)]
  | (b, u) :: rest, a, v =>
    if a < b then (if v = Memory.unlisted a then (b, u) :: rest else (a, v) :: (b, u) :: rest)
    else if a = b then (if v = Memory.unlisted a then rest else (a, v) :: rest)
    else (b, u) :: Memory.write rest a v

/-- The canonical form: addresses below 4096 (R50) and strictly rising, no entry equal to what its unlisted cell
reads as. -/
def Memory.wf : Memory → Bool
  | [] => true
  | (a, v) :: rest =>
    decide (a < 4096) && decide (v ≠ Memory.unlisted a) && rest.all (fun c => decide (a < c.1)) && Memory.wf rest

/-- R52 `MemRead(addr, 1) = memory[addr mod 4096]`, for any non-negative `addr`. -/
def State.memRead (s : State) (addr : Nat) : Byte := Memory.read s.mem (addr % 4096)

/-- R52 `MemWrite(addr, 1, v)`: `memory[addr mod 4096] <- v`, one cell. -/
def State.memWrite (s : State) (addr : Nat) (v : Byte) : State :=
  { s with mem := Memory.write s.mem (addr % 4096) v }

/-- R54 `MemRead(addr, 2)`: big-endian, each byte's address reduced on its own. -/
def State.memRead2 (s : State) (addr : Nat) : Word := s.memRead addr ++ s.memRead (addr + 1)

/-- The bytes of a list written one after the other from `addr` upward, each by its own `MemWrite`. -/
def State.memWriteList (s : State) (addr : Nat) : List Byte → State
  | [] => s
  | v :: vs => State.memWriteList (s.memWrite addr v) (addr + 1) vs

/-! ### General registers (R20) -/

/-- `reg[r]`. -/
def State.reg (s : State) (r : RegIdx) : Byte := s.regs[r.toNat]'r.isLt

/-- `reg[r] <- v`: none of the 16 is hardwired. -/
def State.setReg (s : State) (r : RegIdx) (v : Byte) : State :=
  { s with regs := s.regs.set r.toNat v r.isLt }

/-- The flag register `reg[F]` (R21). -/
def flagReg : RegIdx := 0xF#4

/-! ### Address registers, timers, framebuffer -/

/-- `I <- v` (R23). -/
def State.setIndex (s : State) (v : Word) : State := { s with index := v }

/-- `pc <- v` (R24). -/
def State.setPc (s : State) (v : Word) : State := { s with pc := v }

/-- `delay_timer <- v` (R31). -/
def State.setDelay (s : State) (v : Byte) : State := { s with delayTimer := v }

/-- `sound_timer <- v` (R32). -/
def State.setSound (s : State) (v : Byte) : State := { s with soundTimer := v }

/-- The framebuffer takes a new value (R33). -/
def State.setFb (s : State) (fb : Framebuffer) : State := { s with fb := fb }

/-- R118: a taken skip adds 2 to pc, mod 65536 (R26), on top of the fetch's advance. -/
def State.skipIf (s : State) (taken : Bool) : State := if taken then s.setPc (s.pc + 2#16) else s

/-! ### Call stack (R28-R30) -/

/-- R29 `Push(v)`: the fault STACK_OVERFLOW when sp = 12, tested before anything is written. -/
def State.push (s : State) (v : Word) : Except FaultCode State :=
  if h : s.sp.val = 12 then .error .stackOverflow
  else .ok { s with
    stack := s.stack.set s.sp.val v (by have := s.sp.isLt; omega)
    sp := ⟨s.sp.val + 1, by have := s.sp.isLt; omega⟩ }

/-- R30 `Pop()`: the fault STACK_UNDERFLOW when sp = 0; the popped entry stays in the stack as a stale one
(R110). -/
def State.pop (s : State) : Except FaultCode (Word × State) :=
  if h : s.sp.val = 0 then .error .stackUnderflow
  else .ok (s.stack[s.sp.val - 1]'(by have := s.sp.isLt; omega),
    { s with sp := ⟨s.sp.val - 1, by have := s.sp.isLt; omega⟩ })

/-! ### Inputs (R12) -/

/-- `KeyDown(k)`: bit k of the port `key[15:0]` (R245). -/
def State.keyDown (s : State) (k : Nat) : Bool := s.keypad.getLsbD k

/-- `RandomByte()`: the byte a CXNN executed now consumes (R152, R247), the oldest supplied one, or a free value
when the collaborator has supplied none (log entry 2). -/
def State.randomByte (s : State) : Byte :=
  match s.rndQueue with
  | b :: _ => b
  | [] => Config.randomByte s.rndDrawn

/-- The draw is consumed: no later CXNN sees the same one. -/
def State.consumeRandom (s : State) : State :=
  match s.rndQueue with
  | _ :: rest => { s with rndQueue := rest }
  | [] => { s with rndDrawn := s.rndDrawn + 1 }

/-! ### The instruction cycle (30_encoding.md) -/

/-- R87: a STEP executes and a TICK acts (R241) only when `run_state = Running` and `fault = NONE`. -/
def State.active (s : State) : Bool := s.runState == .running && s.fault == .none

/-- R88: the word at pc. -/
def State.fetchWord (s : State) : Word := s.memRead2 s.pc.toNat

/-- R88, R89: IR holds the word and pc is P = (A + 2) mod 65536 before anything executes. -/
def State.afterFetch (s : State) : State := { s with ir := s.fetchWord, pc := s.pc + 2#16 }

/-! ### Raising a fault (R11, R231, R232) -/

/-- `raise Fault(code)`: the instruction has no architectural effect, and the fault register takes `code`. Every
instruction that faults tests its condition before it writes, so this acts on the state the instruction started
with. -/
def State.raiseFault (s : State) (code : FaultCode) : State := { s with fault := code }

/-- R232, R94: how a step that began in `s` ends when its instruction left `t`. Without a fault it ends in `t`.
With one it ends in `s` with `fault` set: "the suppression of the fetch's pc advance and of the IR write". -/
def State.commit (s t : State) : State := if t.fault = .none then t else s.raiseFault t.fault

end Sys2Proof.Machine
end

