-- ==== Sys2Proof/Machine/Flags.lean ====
section
/-! DEFINITION. The flags, all in reg[F] (10_state.md R21; 41_alu.md R140): carry, not-borrow, the shifted-out low
and high bit, and the collision of DXYN. Each is computed from the operands' old values. -/

namespace Sys2Proof.Machine

/-- A flag as the byte reg[F] takes. -/
def flagByte (b : Bool) : Byte := if b then 0x01#8 else 0x00#8

/-- R147: 1 if the unsigned sum exceeds 255, before truncation. -/
def carryFlag (a b : Byte) : Byte := flagByte (decide (a.toNat + b.toNat > 255))

/-- R148, R150: NOT-borrow of `a - b`, 1 if a is at least b. -/
def notBorrowFlag (a b : Byte) : Byte := flagByte (decide (a.toNat ≥ b.toNat))

/-- R149: the least significant bit before the shift. -/
def lowBitFlag (a : Byte) : Byte := flagByte (a.getLsbD 0)

/-- R151: the most significant bit before the shift. -/
def highBitFlag (a : Byte) : Byte := flagByte (a.getLsbD 7)

/-- "The result is written to reg[X], and then the flag is written to reg[F]. So the flag write always wins when
X = F" (R140, R21). -/
def State.writeResultAndFlag (s : State) (x : RegIdx) (result flag : Byte) : State :=
  (s.setReg x result).setReg flagReg flag

end Sys2Proof.Machine
end

