-- ==== Sys2Proof/Machine/Alu.lean ====
section
/-! DEFINITION. The ALU and register moves (41_alu.md): 6XNN, 7XNN, 8XY0-8XY7, 8XYE, CXNN. Operands are read before
any write (R140); no instruction here changes pc, touches memory or raises a fault. -/

namespace Sys2Proof.Machine

/-- `(a + b) mod 256` (R142, R147). -/
def sumByte (a b : Byte) : Byte := BitVec.ofNat 8 (a.toNat + b.toNat)

/-- `(a - b) mod 256`, that is `(a + 256 - b) mod 256` (R148, R150). -/
def diffByte (a b : Byte) : Byte := BitVec.ofNat 8 (a.toNat + 256 - b.toNat)

/-- R141 load-imm: `reg[X] <- NN`. -/
def execLoadImm (x : RegIdx) (nn : Byte) (s : State) : Result := .next (s.setReg x nn)

/-- R142 add-imm: `reg[X] <- (reg[X] + NN) mod 256`, no flag (conflict C6). -/
def execAddImm (x : RegIdx) (nn : Byte) (s : State) : Result := .next (s.setReg x (sumByte (s.reg x) nn))

/-- R143 move: `reg[X] <- reg[Y]`. -/
def execMove (x y : RegIdx) (s : State) : Result := .next (s.setReg x (s.reg y))

/-- R144 or: no flag. -/
def execOr (x y : RegIdx) (s : State) : Result := .next (s.setReg x (s.reg x ||| s.reg y))

/-- R145 and: no flag. -/
def execAnd (x y : RegIdx) (s : State) : Result := .next (s.setReg x (s.reg x &&& s.reg y))

/-- R146 xor: no flag. -/
def execXor (x y : RegIdx) (s : State) : Result := .next (s.setReg x (s.reg x ^^^ s.reg y))

/-- R147 add: the sum mod 256, then the carry. -/
def execAdd (x y : RegIdx) (s : State) : Result :=
  .next (s.writeResultAndFlag x (sumByte (s.reg x) (s.reg y)) (carryFlag (s.reg x) (s.reg y)))

/-- R148 sub: `reg[X] - reg[Y]`, then NOT-borrow. -/
def execSub (x y : RegIdx) (s : State) : Result :=
  .next (s.writeResultAndFlag x (diffByte (s.reg x) (s.reg y)) (notBorrowFlag (s.reg x) (s.reg y)))

/-- R149 shift-right: reg[X] is the source (SHIFT_SOURCE of R6); the Y field is ignored. -/
def execShiftRight (x _y : RegIdx) (s : State) : Result :=
  .next (s.writeResultAndFlag x (s.reg x >>> 1) (lowBitFlag (s.reg x)))

/-- R150 sub-reverse: `reg[Y] - reg[X]`, then NOT-borrow. -/
def execSubReverse (x y : RegIdx) (s : State) : Result :=
  .next (s.writeResultAndFlag x (diffByte (s.reg y) (s.reg x)) (notBorrowFlag (s.reg y) (s.reg x)))

/-- R151 shift-left: reg[X] is the source; the Y field is ignored. -/
def execShiftLeft (x _y : RegIdx) (s : State) : Result :=
  .next (s.writeResultAndFlag x (s.reg x <<< 1) (highBitFlag (s.reg x)))

/-- R152 random: one draw per execution, consumed whatever NN is. -/
def execRandom (x : RegIdx) (nn : Byte) (s : State) : Result :=
  .next (s.consumeRandom.setReg x (s.randomByte &&& nn))

end Sys2Proof.Machine
end

