-- ==== Sys2Proof/Machine/Operands.lean ====
section
/-! DEFINITION. The operand forms (30_encoding.md R82; 42_index_memory.md R170): immediates are unsigned and
zero-extended, targets are absolute, and data addresses are I plus a small offset. -/

namespace Sys2Proof.Machine

/-- R82: the address operand, `zext_16(NNN)`. -/
def addrOperand (nnn : Addr) : Word := nnn.zeroExtend 16

/-- R117: the target of BNNN, `(zext_16(NNN) + reg[0]) mod 65536`. -/
def State.offsetTarget (s : State) (nnn : Addr) : Word := addrOperand nnn + (s.reg 0x0#4).zeroExtend 16

/-- R170: the data address `I + k` before its reduction mod 4096, which the memory primitives do (R52). -/
def State.dataAddr (s : State) (k : Nat) : Nat := s.index.toNat + k

/-- The registers `reg[0]` to `reg[n - 1]`, in order: the source operand of FX55 (R175). -/
def State.regList (s : State) (n : Nat) : List Byte := (List.range n).map (fun k => s.reg (BitVec.ofNat 4 k))

/-- The destination operand of FX65 (R176): `reg[k] <- MemRead(I + k, 1)` for k = 0, 1, ..., n - 1. -/
def State.loadRegList (s : State) : Nat → State
  | 0 => s
  | k + 1 => (s.loadRegList k).setReg (BitVec.ofNat 4 k) ((s.loadRegList k).memRead ((s.loadRegList k).dataAddr k))

/-- R174: the decimal digits of a byte, hundreds first. -/
def bcdDigits (v : Byte) : List Byte :=
  [BitVec.ofNat 8 (v.toNat / 100), BitVec.ofNat 8 (v.toNat / 10 % 10), BitVec.ofNat 8 (v.toNat % 10)]

/-- R173: the address of glyph v, `v * 5`, without masking v. -/
def glyphAddr (v : Byte) : Word := BitVec.ofNat 16 (v.toNat * 5)

/-- R212: the lowest pressed key, `min { k | KeyDown(k) }` (decision D12), or none. -/
def State.lowestKey (s : State) : Option Nat := (List.range 16).find? (fun k => s.keyDown k)

end Sys2Proof.Machine
end

