-- ==== Sys2Proof/Machine/Display.lean ====
section
/-! DEFINITION. The framebuffer and the drawing/collision unit (43_display.md): 00E0, DXYN. -/

namespace Sys2Proof.Machine

/-- The cell `fb[y][x]` (R33); no cell exists outside the 64 x 32 grid. -/
def Framebuffer.cell (fb : Framebuffer) (x y : Nat) : Bool :=
  if h : y < 32 then (fb[y]'h).getLsbD x else false

/-- `fb[y][x] <- v`. -/
def Framebuffer.setCell (fb : Framebuffer) (x y : Nat) (v : Bool) : Framebuffer :=
  if h : y < 32 then
    fb.set y (if v then fb[y]'h ||| (1#64 <<< x) else fb[y]'h &&& ~~~(1#64 <<< x)) h
  else fb

/-- The cell `fb[y][x]` of the machine. -/
def State.pixel (s : State) (x y : Nat) : Bool := Framebuffer.cell s.fb x y

/-- R190: every cell off. -/
def Framebuffer.clear : Framebuffer := Vector.replicate 32 0x0000000000000000#64

/-- R192, one bit of a row: the column `x0 + b` takes the XOR of the cell and sprite bit `7 - b`, and a set bit on a
cell that was on is a collision. A column of 64 or more is not drawn (R194): the columns rise with b, so leaving
each such bit out is the rule's "stop this row". -/
def drawBit (sprite : Byte) (x0 y b : Nat) (acc : Framebuffer × Bool) : Framebuffer × Bool :=
  if 64 ≤ x0 + b then acc
  else
    let bit := sprite.getLsbD (7 - b)
    let old := Framebuffer.cell acc.1 (x0 + b) y
    (Framebuffer.setCell acc.1 (x0 + b) y (old ^^ bit), acc.2 || (bit && old))

/-- R192, one row: bits 0, 1, ..., n - 1 of it, leftmost (bit 7 of the byte) first. -/
def drawBits (sprite : Byte) (x0 y : Nat) (acc : Framebuffer × Bool) : Nat → Framebuffer × Bool
  | 0 => acc
  | b + 1 => drawBit sprite x0 y b (drawBits sprite x0 y acc b)

/-- R192, the rows 0, 1, ..., n - 1 of a sprite whose row r is `row r`. A row of 32 or more is not drawn (R194): the
rows rise with r, so leaving each such row out is the rule's "stop". -/
def drawRows (row : Nat → Byte) (x0 y0 : Nat) (acc : Framebuffer × Bool) : Nat → Framebuffer × Bool
  | 0 => acc
  | r + 1 =>
    let before := drawRows row x0 y0 acc r
    if 32 ≤ y0 + r then before else drawBits (row r) x0 (y0 + r) before 8

/-- The drawing/collision unit (R191): the new framebuffer and the collision bit of the N-row sprite at I. -/
def State.drawSprite (s : State) (x0 y0 n : Nat) : Framebuffer × Bool :=
  drawRows (fun r => s.memRead (s.dataAddr r)) x0 y0 (s.fb, false) n

/-- R190 clear-screen. -/
def execClearScreen (s : State) : Result := .next (s.setFb Framebuffer.clear)

/-- R192 draw: both coordinates are latched before reg[F] is written (R193, decision D13); reg[F] ends as the
collision bit, also when X or Y is F. -/
def execDraw (x y : RegIdx) (n : Nibble) (s : State) : Result :=
  let drawn := s.drawSprite ((s.reg x).toNat % 64) ((s.reg y).toNat % 32) n.toNat
  .next ((s.setFb drawn.1).setReg flagReg (flagByte drawn.2))

end Sys2Proof.Machine
end

