-- ==== Sys2Proof/Machine/Flow.lean ====
section
/-! DEFINITION. Control transfer and skips (40_flow.md): 00EE, 1NNN, 2NNN, 3XNN, 4XNN, 5XYn, 9XYn, BNNN. In every
meaning pc already holds P, the address after the instruction (R89). -/

namespace Sys2Proof.Machine

/-- R110 return: `pc <- Pop()`; STACK_UNDERFLOW when sp = 0 (decision D9). -/
def execRet (s : State) : Result :=
  match s.pop with
  | .ok (v, t) => .next (t.setPc v)
  | .error code => .next (s.raiseFault code)

/-- R111 jump: `pc <- zext_16(NNN)`. -/
def execJump (nnn : Addr) (s : State) : Result := .next (s.setPc (addrOperand nnn))

/-- R112 call: `Push(P)`, then `pc <- zext_16(NNN)`; STACK_OVERFLOW when sp = 12 (decision D8). -/
def execCall (nnn : Addr) (s : State) : Result :=
  match s.push s.pc with
  | .ok t => .next (t.setPc (addrOperand nnn))
  | .error code => .next (s.raiseFault code)

/-- R113 skip-eq-imm. -/
def execSkipEqImm (x : RegIdx) (nn : Byte) (s : State) : Result := .next (s.skipIf (s.reg x == nn))

/-- R114 skip-ne-imm. -/
def execSkipNeImm (x : RegIdx) (nn : Byte) (s : State) : Result := .next (s.skipIf (s.reg x != nn))

/-- R115 skip-eq-reg: the low nibble is ignored (decision D7). -/
def execSkipEqReg (x y : RegIdx) (_n : Nibble) (s : State) : Result := .next (s.skipIf (s.reg x == s.reg y))

/-- R116 skip-ne-reg: the low nibble is ignored (decision D7). -/
def execSkipNeReg (x y : RegIdx) (_n : Nibble) (s : State) : Result := .next (s.skipIf (s.reg x != s.reg y))

/-- R117 jump-offset: the offset register is always reg[0], and the sum is not cut to 12 bits. -/
def execJumpOffset (nnn : Addr) (s : State) : Result := .next (s.setPc (s.offsetTarget nnn))

end Sys2Proof.Machine
end

