-- ==== Sys2Proof/Machine/Index.lean ====
section
/-! DEFINITION. The index register and memory transfers (42_index_memory.md): ANNN, FX1E, FX29, FX33, FX55, FX65. No
meaning here changes pc or writes a flag, and none of the memory transfers changes I. -/

namespace Sys2Proof.Machine

/-- R171 load-index: `I <- zext_16(NNN)`. -/
def execLoadIndex (nnn : Addr) (s : State) : Result := .next (s.setIndex (addrOperand nnn))

/-- R172 add-index: `I <- (I + reg[X]) mod 65536`, no flag (conflict C6; decision D15). -/
def execAddIndex (x : RegIdx) (s : State) : Result := .next (s.setIndex (s.index + (s.reg x).zeroExtend 16))

/-- R173 font-address: `I <- reg[X] * 5`, reg[X] unmasked (decision D16). -/
def execFontAddress (x : RegIdx) (s : State) : Result := .next (s.setIndex (glyphAddr (s.reg x)))

/-- R174 bcd: the three digits of reg[X] at I, I + 1, I + 2, each address mod 4096. -/
def execBcd (x : RegIdx) (s : State) : Result := .next (s.memWriteList (s.dataAddr 0) (bcdDigits (s.reg x)))

/-- R175 store-regs: `MemWrite(I + k, 1, reg[k])` for k = 0..X. -/
def execStoreRegs (x : RegIdx) (s : State) : Result :=
  .next (s.memWriteList (s.dataAddr 0) (s.regList (x.toNat + 1)))

/-- R176 load-regs: `reg[k] <- MemRead(I + k, 1)` for k = 0..X. -/
def execLoadRegs (x : RegIdx) (s : State) : Result := .next (s.loadRegList (x.toNat + 1))

end Sys2Proof.Machine
end

