-- ==== Sys2Proof/Machine/KeypadTimer.lean ====
section
/-! DEFINITION. Keypad and timer instructions (44_keypad_timer.md): EX9E, EXA1, FX0A, FX07, FX15, FX18. The keypad is
read as it stood when the step began (R216): no step changes it. -/

namespace Sys2Proof.Machine

/-- R210, R211: the step faults with KEY_INDEX_RANGE when reg[X] > 0xF (decision D11); otherwise it skips when the key
reg[X] is down (`wanted = true`) or up (`wanted = false`). -/
def State.skipOnKey (s : State) (x : RegIdx) (wanted : Bool) : State :=
  if (s.reg x).toNat > 0xF then s.raiseFault .keyIndexRange
  else s.skipIf (s.keyDown (s.reg x).toNat == wanted)

/-- R210 skip-if-key. -/
def execSkipIfKey (x : RegIdx) (s : State) : Result := .next (s.skipOnKey x true)

/-- R211 skip-if-not-key. -/
def execSkipIfNotKey (x : RegIdx) (s : State) : Result := .next (s.skipOnKey x false)

/-- R212 wait-key: with no key down, pc goes back to A and the same word runs at the next step; with one down, reg[X]
takes the lowest. -/
def execWaitKey (x : RegIdx) (s : State) : Result :=
  match s.lowestKey with
  | none => .next (s.setPc (s.pc - 2#16))
  | some k => .next (s.setReg x (BitVec.ofNat 8 k))

/-- R213 read-delay. -/
def execReadDelay (x : RegIdx) (s : State) : Result := .next (s.setReg x s.delayTimer)

/-- R214 write-delay. -/
def execWriteDelay (x : RegIdx) (s : State) : Result := .next (s.setDelay (s.reg x))

/-- R215 write-sound. -/
def execWriteSound (x : RegIdx) (s : State) : Result := .next (s.setSound (s.reg x))

end Sys2Proof.Machine
end

