-- ==== Sys2Proof/Machine/Step.lean ====
section
/-! DEFINITION. The STEP command (30_encoding.md R87-R94): gate, fetch, pc advance, decode, execute, and the rollback
of a step that faults. -/

namespace Sys2Proof.Machine

/-- R94. A gated step (R87) changes no state; a word that matches no row only advances pc and sets IR (R84); a step
whose instruction raises a fault ends as `State.commit` says (R232). -/
def step (s : State) : Host.Outcome State Fault Refusal :=
  if s.active then
    match decodeWord s.fetchWord with
    | none => .next s.afterFetch
    | some i =>
      match exec i s.afterFetch with
      | .next t => .next (s.commit t)
      | .fault r => .fault r
      | .refused r => .refused r
  else .next s

/-- The state `s` with the instruction `tableWord nbits w` stored at pc, big-endian, each byte's address mod 4096
(R54), and with the gate of R87 open, which the fetch needs: the very next step fetches and runs it (log entry
11). -/
def State.withFetchWord (s : State) (nbits w : Nat) : State :=
  { s.memWriteList s.pc.toNat (wordBytes (tableWord nbits w)) with runState := .running, fault := .none }

end Sys2Proof.Machine
end

