-- ==== Sys2Proof/Machine/Assembler.lean ====
section
/-! DEFINITION. The spec's assembly language (30_encoding.md R95-R97; decision D23): mnemonics, operands, the range
refusals and the `.word` directive. "Not semantic: no rule depends on it" (D23); it is what an instruction's bytes are
written with. -/

namespace Sys2Proof.Machine

/-- An operand: a register `rX`, or a number (NN, NNN, N or a `.word` value). -/
inductive AsmOperand where
  | reg (r : RegIdx)
  | num (n : Nat)
  deriving DecidableEq, Repr

/-- Why the assembler refuses a line. -/
inductive AsmReject where
  /-- The mnemonic, with operands of these kinds, is none of R95's table. -/
  | noSuchForm
  /-- R96: "refuses NN > 255, NNN > 0xFFF and N > 15" (and a `.word` above 0xFFFF). -/
  | tooLarge
  /-- An operand is neither a register name nor a number (R96). -/
  | badOperand
  deriving DecidableEq, Repr

/-- A number in a field of `w` bits, with no sign (R96). -/
def asmField (w n : Nat) : Except AsmReject (BitVec w) :=
  if n < 2 ^ w then .ok (BitVec.ofNat w n) else .error .tooLarge

/-- A mnemonic's constructor in one column of R95's table. -/
def asmLookup {α : Type} (m : List Char) (table : List (String × α)) : Except AsmReject α :=
  match table.find? (fun row => row.1.toList == m) with
  | some row => .ok row.2
  | none => .error .noSuchForm

/-- R95's rows without an operand. -/
def asmBare : List (String × Instr) := [("clear-screen", .clearScreen), ("return", .ret)]

/-- R95's rows with the operand NNN. -/
def asmAddr : List (String × (Addr → Instr)) :=
  [("jump", .jump), ("call", .call), ("load-index", .loadIndex), ("jump-offset", .jumpOffset)]

/-- R95's rows with the operands rX, NN. -/
def asmRegImm : List (String × (RegIdx → Byte → Instr)) :=
  [("skip-eq-imm", .skipEqImm), ("skip-ne-imm", .skipNeImm), ("load-imm", .loadImm), ("add-imm", .addImm),
   ("random", .random)]

/-- R95's rows with the operands rX, rY. `skip-eq-reg` and `skip-ne-reg` assemble with N = 0; the shifts store Y (R96). -/
def asmRegReg : List (String × (RegIdx → RegIdx → Instr)) :=
  [("skip-eq-reg", fun x y => .skipEqReg x y 0#4), ("move", .move), ("or", .orReg), ("and", .andReg),
   ("xor", .xorReg), ("add", .add), ("sub", .sub), ("shift-right", .shiftRight), ("sub-reverse", .subReverse),
   ("shift-left", .shiftLeft), ("skip-ne-reg", fun x y => .skipNeReg x y 0#4)]

/-- R95's rows with the operand rX alone. `shift-right rX` and `shift-left rX` assemble with Y = 0 (R96). -/
def asmReg : List (String × (RegIdx → Instr)) :=
  [("shift-right", fun x => .shiftRight x 0#4), ("shift-left", fun x => .shiftLeft x 0#4),
   ("skip-if-key", .skipIfKey), ("skip-if-not-key", .skipIfNotKey), ("read-delay", .readDelay),
   ("wait-key", .waitKey), ("write-delay", .writeDelay), ("write-sound", .writeSound), ("add-index", .addIndex),
   ("font-address", .fontAddress), ("bcd", .bcd), ("store-regs", .storeRegs), ("load-regs", .loadRegs)]

/-- R95's row with the operands rX, rY, N. -/
def asmRegRegNibble : List (String × (RegIdx → RegIdx → Nibble → Instr)) := [("draw", .draw)]

/-- The instruction a mnemonic and its operands stand for (R95, R96). -/
def asmInstr (m : List Char) (operands : List AsmOperand) : Except AsmReject Instr :=
  match operands with
  | [] => asmLookup m asmBare
  | [.num n] => do return (← asmLookup m asmAddr) (← asmField 12 n)
  | [.reg x] => do return (← asmLookup m asmReg) x
  | [.reg x, .num n] => do return (← asmLookup m asmRegImm) x (← asmField 8 n)
  | [.reg x, .reg y] => do return (← asmLookup m asmRegReg) x y
  | [.reg x, .reg y, .num n] => do return (← asmLookup m asmRegRegNibble) x y (← asmField 4 n)
  | _ => .error .noSuchForm

/-! ### Text (R96) -/

/-- The value of a hex digit, case-insensitive. -/
def hexDigit (c : Char) : Option Nat :=
  if '0' ≤ c ∧ c ≤ '9' then some (c.toNat - '0'.toNat)
  else if 'a' ≤ c ∧ c ≤ 'f' then some (c.toNat - 'a'.toNat + 10)
  else if 'A' ≤ c ∧ c ≤ 'F' then some (c.toNat - 'A'.toNat + 10)
  else none

/-- The value of digits in a base, most significant first, continuing from `acc`. -/
def digitsValue (base acc : Nat) : List Char → Option Nat
  | [] => some acc
  | c :: cs =>
    match hexDigit c with
    | some d => if d < base then digitsValue base (acc * base + d) cs else none
    | none => none

/-- An operand as text: `r0`..`r9`, `rA`..`rF`, or a number, decimal or `0x` hex. -/
def asmOperand (text : List Char) : Except AsmReject AsmOperand :=
  match text with
  | ['r', c] =>
    match hexDigit c with
    | some d => .ok (.reg (BitVec.ofNat 4 d))
    | none => .error .badOperand
  | '0' :: 'x' :: c :: cs =>
    match digitsValue 16 0 (c :: cs) with
    | some n => .ok (.num n)
    | none => .error .badOperand
  | c :: cs =>
    match digitsValue 10 0 (c :: cs) with
    | some n => .ok (.num n)
    | none => .error .badOperand
  | [] => .error .badOperand

/-- Without the spaces at both ends. -/
def trimSpaces (text : List Char) : List Char :=
  ((text.dropWhile (· == ' ')).reverse.dropWhile (· == ' ')).reverse

/-- The pieces between commas. -/
def splitCommas : List Char → List (List Char)
  | [] => [[]]
  | c :: cs =>
    if c == ',' then [] :: splitCommas cs
    else
      match splitCommas cs with
      | [] => [[c]]
      | piece :: pieces => (c :: piece) :: pieces

/-- The operands of a line: none, or operands parted by commas. -/
def asmOperands (text : List Char) : Except AsmReject (List AsmOperand) :=
  if text.isEmpty then .ok [] else (splitCommas text).mapM (fun piece => asmOperand (trimSpaces piece))

/-- The bytes of one line: an instruction, or `.word 0xHHHH`, two bytes big-endian (R97). -/
def asmLine (line : String) : Except AsmReject (List Byte) := do
  let text := trimSpaces line.toList
  let m := text.takeWhile (· != ' ')
  let operands ← asmOperands (trimSpaces (text.dropWhile (· != ' ')))
  if m == ".word".toList then
    match operands with
    | [.num n] => return wordBytes (← asmField 16 n)
    | _ => .error .noSuchForm
  else
    return encodeBytes (← asmInstr m operands)

/-- An assembled program is the byte sequence of its lines alone, with no header (R97). -/
def asmProgram (lines : List String) : Except AsmReject (List Byte) := do
  return (← lines.mapM asmLine).flatten

/-- The mnemonic of an instruction (R95): that of its word's row. -/
def mnemonicOf (i : Instr) : Option String :=
  (opcodeRows.find? (·.selects (encode i))).map (·.mnemonic)

end Sys2Proof.Machine
end

