-- ==== Sys2Proof/Machine/HostCommands.lean ====
section
/-! DEFINITION. The rest of the block's command surface (60_exceptions.md R239-R253; 70_reset_and_hazards.md
R270-R277): RESET, LOAD, TICK, TOGGLE_PAUSE and QUIT, the STEP command with its inputs, and the outputs the host
reads between commands. Every command is total and answers a state: none can stop the model. -/

namespace Sys2Proof.Machine

/-! ### The countdown timer controller (R239-R243) -/

/-- One timer's decrement, "floored at zero (never negative, never wrap)" (R31, R240). -/
def decrement (v : Byte) : Byte := if v.toNat > 0 then BitVec.ofNat 8 (v.toNat - 1) else v

/-- TICK (R240), gated as R241 says. -/
def tick (s : State) : State :=
  if s.active then (s.setDelay (decrement s.delayTimer)).setSound (decrement s.soundTimer) else s

/-! ### The run-state machine (R248-R250) -/

/-- TOGGLE_PAUSE (R249); it acts with a fault too (R233). -/
def togglePause (s : State) : State :=
  match s.runState with
  | .running => { s with runState := .paused }
  | .paused => { s with runState := .running }
  | .halted => s

/-- QUIT (R250): Halted is terminal; it acts with a fault too (R233). -/
def quit (s : State) : State := { s with runState := .halted }

/-! ### Reset and load (R270-R275) -/

/-- The machine right after reset with the table `font` for the parameter FONT_DATA (R6, R42, R59): its 80 bytes stand
at 0x000-0x04F. It is `State.reset` when `font` is the default. -/
def State.resetWith (font : FontData) : State := State.reset.memWriteList 0x000 font.toList

/-- RESET (R270) of a block whose FONT_DATA is `font`: every piece of state takes its reset value. The random source is
no state of the block (R41): the bytes supplied and the position of the free source stay, so that draws after a reset
are no repetition of draws before it (log entry 3). -/
def hostReset (font : FontData) (s : State) : State :=
  { State.resetWith font with rndQueue := s.rndQueue, rndDrawn := s.rndDrawn }

/-- The block with the table `font` for the parameter FONT_DATA: only its reset state depends on the table.
`Sys2Proof.core` is the one with the default (log entry 1). -/
def blockWith (font : FontData) : Host.Core where
  State := State
  Fault := Fault
  Refusal := Refusal
  step := step
  reset := State.resetWith font

/-- LOAD's answer to the host (R273, R274). It is no fault. -/
inductive LoadStatus where
  | ok
  | programTooLarge
  deriving DecidableEq, Repr

/-- LOAD (R273, R274): the bytes go to 0x200 upward, or nothing changes when they are more than 3584. No run state and
no fault gates it (R275). -/
def load (bytes : List Byte) (s : State) : LoadStatus × State :=
  if bytes.length ≤ Config.maxProgram then (.ok, s.memWriteList Config.programBase bytes)
  else (.programTooLarge, s)

/-! ### STEP with its inputs (R252) -/

/-- What a command leaves: `step` answers a next state for every state (its other outcomes cannot occur), and the
machine stays where it is otherwise. -/
def stepState (s : State) : State :=
  match step s with
  | .next t => t
  | .fault _ => s
  | .refused _ => s

/-- The STEP command with its two inputs: `key[15:0]`, held for the whole step (R216, R245), and `rnd[7:0]`, consumed
only if a CXNN executes (R247). -/
def stepWith (key : BitVec 16) (rnd : Byte) (s : State) : State :=
  stepState { s with keypad := key, rndQueue := [rnd] }

/-- R253: a STEP and a TICK accepted together run as the STEP, then the TICK (decision D2). -/
def stepThenTick (key : BitVec 16) (rnd : Byte) (s : State) : State := tick (stepWith key rnd s)

/-- The host's commands (R252). -/
inductive Command where
  | reset
  | load (bytes : List Byte)
  | step (key : BitVec 16) (rnd : Byte)
  | tick
  | togglePause
  | quit
  deriving DecidableEq, Repr

/-- One command to a block whose FONT_DATA is `font`, atomic (R252). RESET alone looks at the table. -/
def perform (font : FontData) (c : Command) (s : State) : State :=
  match c with
  | .reset => hostReset font s
  | .load bytes => (load bytes s).2
  | .step key rnd => stepWith key rnd s
  | .tick => tick s
  | .togglePause => togglePause s
  | .quit => quit s

/-- A schedule of the host: commands one after the other (R252, R291). -/
def performAll (font : FontData) : List Command → State → State
  | [], s => s
  | c :: cs, s => performAll font cs (perform font c s)

/-! ### Outputs (R244, R246, R252) -/

/-- The tone-enable `tone = (sound_timer != 0)` (R244, decision D30). -/
def State.tone (s : State) : Bool := s.soundTimer != 0x00#8

/-- The framebuffer as a 2048-bit vector, cell (x, y) at bit y * 64 + x (R33, R246), given as the number it is. -/
def State.fbOut (s : State) : Nat :=
  (List.range 32).foldr (fun y acc => (if h : y < 32 then (s.fb[y]'h).toNat else 0) + acc * 2 ^ 64) 0

end Sys2Proof.Machine
end

