-- ==== Sys2Proof/Safety.lean ====
section
/-! DEFINITION. The terms the statements are written in: what a safe state is, the invariant every step keeps, what an
instruction may change (its frame), and the spec's own tables of writers (R22, R25, R56) as functions of the
instruction. -/

namespace Sys2Proof.Machine

/-- R233: "A faulted machine is a final bad state for the observation". -/
abbrev State.Safe (s : State) : Prop := s.fault = .none

/-- The invariant of the model: memory is in its one canonical form, all addresses below 4096 (R50). -/
abbrev State.Inv (s : State) : Prop := Memory.wf s.mem = true

/-- The state beside the general registers, memory and pc that an instruction, or the fetch (IR, R88), may change. -/
inductive Part where
  | index
  | stack
  | delay
  | sound
  | fb
  | source
  | fault
  | ir
  deriving DecidableEq, Repr

/-- From `s` to `t` every register outside `regs`, every memory cell outside `cells` (addresses below 4096) and every
part not listed in `parts` is unchanged; so are, always, the keypad (R35) and the run state (R36, R248). pc is not
spoken of. -/
structure Frame (regs : RegIdx → Prop) (cells : Nat → Prop) (parts : List Part) (s t : State) : Prop where
  regs_kept : ∀ r, ¬ regs r → t.reg r = s.reg r
  cells_kept : ∀ a, ¬ cells (a % 4096) → t.memRead a = s.memRead a
  index_kept : .index ∉ parts → t.index = s.index
  stack_kept : .stack ∉ parts → t.stack = s.stack ∧ t.sp = s.sp
  delay_kept : .delay ∉ parts → t.delayTimer = s.delayTimer
  sound_kept : .sound ∉ parts → t.soundTimer = s.soundTimer
  fb_kept : .fb ∉ parts → t.fb = s.fb
  source_kept : .source ∉ parts → t.rndQueue = s.rndQueue ∧ t.rndDrawn = s.rndDrawn
  fault_kept : .fault ∉ parts → t.fault = s.fault
  keypad_kept : t.keypad = s.keypad
  runState_kept : t.runState = s.runState
  ir_kept : .ir ∉ parts → t.ir = s.ir

/-- No register. -/
abbrev noRegs : RegIdx → Prop := fun _ => False

/-- No memory cell. -/
abbrev noCells : Nat → Prop := fun _ => False

/-- The cells `base, base + 1, ..., base + n - 1`, each address mod 4096 (R51). -/
abbrev cellsFrom (base n : Nat) : Nat → Prop := fun a => ∃ k, k < n ∧ a = (base + k) % 4096

/-- R22's column "writes": the general registers each instruction writes. -/
def writesReg (i : Instr) : RegIdx → Prop :=
  match i with
  | .loadImm x _ | .addImm x _ | .random x _ | .readDelay x | .waitKey x => fun r => r = x
  | .move x _ | .orReg x _ | .andReg x _ | .xorReg x _ => fun r => r = x
  | .add x _ | .sub x _ | .subReverse x _ | .shiftRight x _ | .shiftLeft x _ => fun r => r = x ∨ r = flagReg
  | .draw _ _ _ => fun r => r = flagReg
  | .loadRegs x => fun r => r.toNat ≤ x.toNat
  | .clearScreen | .ret | .jump _ | .call _ | .skipEqImm _ _ | .skipNeImm _ _ | .skipEqReg _ _ _
  | .skipNeReg _ _ _ | .loadIndex _ | .jumpOffset _ | .skipIfKey _ | .skipIfNotKey _ | .writeDelay _
  | .writeSound _ | .addIndex _ | .fontAddress _ | .bcd _ | .storeRegs _ => noRegs

/-- R56's column "writes": the memory cells each instruction writes, from the value of I. -/
def writesCell (i : Instr) (index : Word) : Nat → Prop :=
  match i with
  | .bcd _ => cellsFrom index.toNat 3
  | .storeRegs x => cellsFrom index.toNat (x.toNat + 1)
  | .clearScreen | .ret | .jump _ | .call _ | .skipEqImm _ _ | .skipNeImm _ _ | .skipEqReg _ _ _ | .loadImm _ _
  | .addImm _ _ | .move _ _ | .orReg _ _ | .andReg _ _ | .xorReg _ _ | .add _ _ | .sub _ _ | .shiftRight _ _
  | .subReverse _ _ | .shiftLeft _ _ | .skipNeReg _ _ _ | .loadIndex _ | .jumpOffset _ | .random _ _
  | .draw _ _ _ | .skipIfKey _ | .skipIfNotKey _ | .readDelay _ | .waitKey _ | .writeDelay _ | .writeSound _
  | .addIndex _ | .fontAddress _ | .loadRegs _ => noCells

/-- The other state each instruction may write: I (R23), the call stack (R28), the timers (R31, R32), the framebuffer
(R33), the random source (R247), the fault register (R231). -/
def writesPart : Instr → List Part
  | .loadIndex _ | .addIndex _ | .fontAddress _ => [.index]
  | .call _ | .ret => [.stack, .fault]
  | .writeDelay _ => [.delay]
  | .writeSound _ => [.sound]
  | .clearScreen | .draw _ _ _ => [.fb]
  | .random _ _ => [.source]
  | .skipIfKey _ | .skipIfNotKey _ => [.fault]
  | .jump _ | .skipEqImm _ _ | .skipNeImm _ _ | .skipEqReg _ _ _ | .skipNeReg _ _ _ | .jumpOffset _
  | .loadImm _ _ | .addImm _ _ | .move _ _ | .orReg _ _ | .andReg _ _ | .xorReg _ _ | .add _ _ | .sub _ _
  | .shiftRight _ _ | .subReverse _ _ | .shiftLeft _ _ | .readDelay _ | .waitKey _ | .bcd _ | .storeRegs _
  | .loadRegs _ => []

/-- R231's column "condition": the fault an instruction raises in a state, NONE where it raises none. -/
def faultRaised (s : State) : Instr → FaultCode
  | .call _ => if s.sp.val = 12 then .stackOverflow else .none
  | .ret => if s.sp.val = 0 then .stackUnderflow else .none
  | .skipIfKey x | .skipIfNotKey x => if (s.reg x).toNat > 15 then .keyIndexRange else .none
  | .clearScreen | .jump _ | .skipEqImm _ _ | .skipNeImm _ _ | .skipEqReg _ _ _ | .skipNeReg _ _ _
  | .jumpOffset _ | .loadImm _ _ | .addImm _ _ | .move _ _ | .orReg _ _ | .andReg _ _ | .xorReg _ _ | .add _ _
  | .sub _ _ | .shiftRight _ _ | .subReverse _ _ | .shiftLeft _ _ | .loadIndex _ | .random _ _ | .draw _ _ _
  | .readDelay _ | .waitKey _ | .writeDelay _ | .writeSound _ | .addIndex _ | .fontAddress _ | .bcd _
  | .storeRegs _ | .loadRegs _ => .none

/-- The sprite bit that DXYN, started in `s`, lays over the cell (cx, cy): bit `7 - (cx - x0)` of the byte at
`I + (cy - y0)` where the cell lies in the sprite's 8 columns and N rows and in the 64 x 32 grid (R192, R194), no bit
elsewhere. -/
def State.spriteOver (s : State) (x y : RegIdx) (n : Nibble) (cx cy : Nat) : Bool :=
  let x0 := (s.reg x).toNat % 64
  let y0 := (s.reg y).toNat % 32
  decide (x0 ≤ cx ∧ cx < x0 + 8 ∧ cx < 64 ∧ y0 ≤ cy ∧ cy < y0 + n.toNat ∧ cy < 32) &&
    (s.memRead (s.index.toNat + (cy - y0))).getLsbD (7 - (cx - x0))

/-- The entry on top of the call stack (R30), read as a number; 0 where the stack is empty. -/
def State.topEntry (s : State) : Nat := ((s.stack.toList.take s.sp.val).getLastD 0#16).toNat

/-- R25's table for a step that raises no fault: the value of pc after the step, as a number, from the state `s` before
it. `A` is `s.pc`, `P` is `(A + 2) mod 65536`, and no instruction (a no-op word) leaves P. -/
def pcAfter (s : State) : Option Instr → Nat
  | some (.jump nnn) => nnn.toNat
  | some (.call nnn) => nnn.toNat
  | some .ret => s.topEntry
  | some (.jumpOffset nnn) => nnn.toNat + (s.reg 0#4).toNat
  | some (.skipEqImm x nn) => (s.pc.toNat + (if s.reg x = nn then 4 else 2)) % 65536
  | some (.skipNeImm x nn) => (s.pc.toNat + (if s.reg x = nn then 2 else 4)) % 65536
  | some (.skipEqReg x y _) => (s.pc.toNat + (if s.reg x = s.reg y then 4 else 2)) % 65536
  | some (.skipNeReg x y _) => (s.pc.toNat + (if s.reg x = s.reg y then 2 else 4)) % 65536
  | some (.skipIfKey x) => (s.pc.toNat + (if s.keypad.getLsbD (s.reg x).toNat then 4 else 2)) % 65536
  | some (.skipIfNotKey x) => (s.pc.toNat + (if s.keypad.getLsbD (s.reg x).toNat then 2 else 4)) % 65536
  | some (.waitKey _) => if s.keypad = 0#16 then s.pc.toNat else (s.pc.toNat + 2) % 65536
  | some .clearScreen | some (.loadImm _ _) | some (.addImm _ _) | some (.move _ _) | some (.orReg _ _)
  | some (.andReg _ _) | some (.xorReg _ _) | some (.add _ _) | some (.sub _ _) | some (.shiftRight _ _)
  | some (.subReverse _ _) | some (.shiftLeft _ _) | some (.loadIndex _) | some (.random _ _)
  | some (.draw _ _ _) | some (.readDelay _) | some (.writeDelay _) | some (.writeSound _)
  | some (.addIndex _) | some (.fontAddress _) | some (.bcd _) | some (.storeRegs _) | some (.loadRegs _)
  | none => (s.pc.toNat + 2) % 65536

end Sys2Proof.Machine
end

