-- ==== Sys2Proof/Certificates/Slice0/Obligations.lean ====
section
/-! DEFINITION. The statements for the provers, from the numbered rules of spec/. An instruction's statement says its
encoding line, that `exec` answers a next state (on the state the fetch left, so that `s.pc` is P, R89), what that
state holds, and its frame. Numbers are read as unsigned integers and narrowed by `%`, as the spec writes them (R8). -/

open Sys2Proof Sys2Proof.Machine

/-! ## Encoding (30_encoding.md) -/

/-- Decode and encode agree: no bit of an encoding is dropped, every operand at every value (R81, R82, R86). That the
ignored n of 5XYn and 9XYn and the ignored Y of the shifts are operands of `Instr` is the model's choice, log entry 7. -/
def Obligations.DecodeOfEncode : Prop := ∀ i : Instr, decodeWord (encode i) = some i

/-- Each word has one meaning: an instruction read from a word encodes to that word, ignored bits included. That an
instruction keeps the bits it ignores (n of 5XYn and 9XYn, Y of 8XY6 and 8XYE), so that encoding gives back the whole
word, is the MODEL'S CHOICE, log entry 7: R115 and R116 have the operands X and Y only, and R96 assembles n = 0. -/
def Obligations.EncodeOfDecode : Prop := ∀ (w : Word) (i : Instr), decodeWord w = some i → encode i = w

/-- R84's table of the no-op spaces, by family, low nibble and low byte of the word as a number. -/
def Obligations.NoOpWordsAreTheFourSpaces : Prop :=
  ∀ w : Word, decodeWord w = none ↔
    (w.toNat / 4096 = 0 ∧ w.toNat ≠ 0x00E0 ∧ w.toNat ≠ 0x00EE) ∨
    (w.toNat / 4096 = 0x8 ∧ w.toNat % 16 ∈ [0x8, 0x9, 0xA, 0xB, 0xC, 0xD, 0xF]) ∨
    (w.toNat / 4096 = 0xE ∧ w.toNat % 256 ∉ [0x9E, 0xA1]) ∨
    (w.toNat / 4096 = 0xF ∧ w.toNat % 256 ∉ [0x07, 0x0A, 0x15, 0x18, 0x1E, 0x29, 0x33, 0x55, 0x65])

/-- "The rows never overlap: no word matches two rows" (R86). -/
def Obligations.AtMostOneRowSelectsAWord : Prop :=
  ∀ w : Word, (opcodeRows.filter (fun r => r.selects w)).length ≤ 1

/-- Words written out bit by bit from the spec's encodings, at least one of each family. -/
def Obligations.WordsWrittenOutDecode : Prop :=
  decodeWord 0b0000000011100000#16 = some .clearScreen ∧
  decodeWord 0b0000000011101110#16 = some .ret ∧
  decodeWord 0b0001001000110100#16 = some (.jump 0x234) ∧
  decodeWord 0b0101000100100001#16 = some (.skipEqReg 1 2 1) ∧
  decodeWord 0b0111000111111111#16 = some (.addImm 1 0xFF) ∧
  decodeWord 0b1000000000100100#16 = some (.add 0 2) ∧
  decodeWord 0b1000000100101110#16 = some (.shiftLeft 1 2) ∧
  decodeWord 0b1010001000011110#16 = some (.loadIndex 0x21E) ∧
  decodeWord 0b1101000100100101#16 = some (.draw 1 2 5) ∧
  decodeWord 0b1110001010011110#16 = some (.skipIfKey 2) ∧
  decodeWord 0b1111101000110011#16 = some (.bcd 0xA) ∧
  decodeWord 0b1111001001100101#16 = some (.loadRegs 2)

/-- "A decoder always consumes exactly 2 bytes" (R80), the first byte the high one (R53). That the word of `i` is the
two bytes also where `i` ignores some of their bits (n of 5XYn and 9XYn, Y of 8XY6 and 8XYE) is the MODEL'S CHOICE to
keep those bits in `Instr`, log entry 7. -/
def Obligations.DecoderTakesTwoBytes : Prop :=
  ∀ (bytes rest : List Byte) (i : Instr), decode bytes = .ok (i, rest) →
    ∃ hi lo, bytes = hi :: lo :: rest ∧ (encode i).toNat = 256 * hi.toNat + lo.toNat

/-- The assembler writes exactly the well-formed instructions (R95, R96; the language is the spec's own decision D23):
the rows of R95 with operands in range, `skip-eq-reg` and `skip-ne-reg` with N = 0. It writes them under their own
mnemonic of R86's table and under no other. -/
def Obligations.AssemblerWritesTheWellFormed : Prop :=
  (∀ i : Instr, i.wellFormed = true ↔ ∃ m operands, asmInstr m operands = .ok i) ∧
  (∀ (m : List Char) (operands : List AsmOperand) (i : Instr), asmInstr m operands = .ok i →
    (mnemonicOf i).map String.toList = some m)

/-! ## The instruction cycle (30_encoding.md R87-R94) -/

/-- R94: when the two bytes at pc decode to `i` and the gate is open, a step is `i`'s meaning on the state after the
fetch (IR the word, pc plus 2), its result kept unless it raised a fault, which leaves the state before the step with
the fault register set. -/
def Obligations.StepRunsTheDecodedInstruction : Prop :=
  ∀ (s : State) (i : Instr), s.runState = .running → s.fault = .none →
    decode [s.memRead s.pc.toNat, s.memRead (s.pc.toNat + 1)] = .ok (i, []) →
    step s =
      match exec i { s with ir := s.memRead s.pc.toNat ++ s.memRead (s.pc.toNat + 1), pc := s.pc + 2#16 } with
      | .next t => .next (if t.fault = .none then t else { s with fault := t.fault })
      | .fault r => .fault r
      | .refused r => .refused r

/-- "A no-op word changes nothing beyond the fetch: pc is advanced by 2 (rule R89), IR holds the word" (R84, R85). -/
def Obligations.NoOpWordOnlyAdvancesPc : Prop :=
  ∀ s : State, s.runState = .running → s.fault = .none → decodeWord s.fetchWord = none →
    ∃ t, step s = .next t ∧ t.pc.toNat = (s.pc.toNat + 2) % 65536 ∧ t.ir = s.fetchWord ∧
      Frame noRegs noCells [.ir] s t

/-- R87: a STEP that is not Running, or with a fault (decision D10), changes no state at all. -/
def Obligations.GatedStepChangesNothing : Prop :=
  ∀ s : State, s.runState ≠ .running ∨ s.fault ≠ .none → step s = .next s

/-- Every step of every state answers a next state: no encoding traps (R84, R85) and no access faults (R51). A step that
raises one of the three faults answers a next state too, the one with the fault register set: R285's "faults and stops
the machine" is the spec's own decision D10 (R232, R233), and that it is a next state of the model, no stop of it, is
DEDUCED, log entry 4. -/
def Obligations.EveryStepAnswersANextState : Prop := ∀ s : State, ∃ t, step s = .next t

/-- The fetch primitive (R53, R54): big-endian, each byte's address reduced mod 4096 on its own. -/
def Obligations.FetchIsBigEndian : Prop :=
  ∀ (s : State) (a : Nat),
    (s.memRead2 a).toNat = 256 * (Memory.read s.mem (a % 4096)).toNat + (Memory.read s.mem ((a + 1) % 4096)).toNat ∧
    s.fetchWord = s.memRead2 s.pc.toNat

/-- R25's table, for every instruction and every no-op word: pc after the step, or A when the step faults (the faults
are the spec's own decision D10). -/
def Obligations.PcAfterEveryStep : Prop :=
  ∀ s t : State, s.runState = .running → s.fault = .none → step s = .next t →
    t.pc.toNat = if t.fault = .none then pcAfter s (decodeWord s.fetchWord) else s.pc.toNat

/-- The frame of every instruction at once: a step writes only the general registers of R22's column "writes", only
the memory cells of R56's column "writes", and of the other state only what its rule names, beside IR and pc; a no-op
word writes nothing (R84). -/
def Obligations.StepWritesOnlyWhatTheTablesName : Prop :=
  ∀ s t : State, s.runState = .running → s.fault = .none → step s = .next t →
    match decodeWord s.fetchWord with
    | some i => Frame (writesReg i) (writesCell i s.index) (.ir :: writesPart i) s t
    | none => Frame noRegs noCells [.ir] s t

/-- "The core never changes the run state itself" (R248), and no instruction writes the keypad (R35). -/
def Obligations.StepNeverChangesRunStateOrKeypad : Prop :=
  ∀ s t : State, step s = .next t → t.runState = s.runState ∧ t.keypad = s.keypad

/-! ## Faults (60_exceptions.md R230-R236; the faults are the spec's own decisions D8-D11) -/

/-- R232: a step that raises a fault leaves every piece of state as it was, except that `fault` takes the code. -/
def Obligations.FaultIsPrecise : Prop :=
  ∀ s t : State, s.runState = .running → s.fault = .none → step s = .next t → t.fault ≠ .none →
    t = { s with fault := t.fault }

/-- R231: the three causes, and "No other instruction and no other condition raises a fault". -/
def Obligations.FaultsHaveExactlyTheirCauses : Prop :=
  ∀ s t : State, s.runState = .running → s.fault = .none → step s = .next t →
    t.fault = match decodeWord s.fetchWord with
      | some i => faultRaised s i
      | none => .none

/-- R233: with a fault STEP and TICK change nothing, every command but RESET keeps the fault, and RESET clears it, for
every table FONT_DATA. -/
def Obligations.FaultIsStickyUntilReset : Prop :=
  ∀ (font : FontData) (s : State), s.fault ≠ .none →
    step s = .next s ∧ tick s = s ∧ (∀ c : Command, c ≠ .reset → (perform font c s).fault = s.fault) ∧
      (perform font .reset s).fault = .none

/-! ## Memory (20_memory.md) -/

/-- R52: a write changes exactly one cell, the one at `addr mod 4096`, and nothing else of the machine. -/
def Obligations.WriteChangesExactlyOneCell : Prop :=
  ∀ (s : State) (a : Nat) (v : Byte), s.Inv →
    (∀ b, (s.memWrite a v).memRead b = if b % 4096 = a % 4096 then v else s.memRead b) ∧
    (s.memWrite a v).pc = s.pc ∧ Frame noRegs (fun c => c = a % 4096) [] s (s.memWrite a v)

/-- Every step keeps memory in its canonical form, addresses below 4096 (R50), from every state that has it. -/
def Obligations.StepKeepsMemoryCanonical : Prop := ∀ s t : State, s.Inv → step s = .next t → t.Inv

/-- Every schedule of host commands keeps memory in its canonical form (R252), for every table FONT_DATA. -/
def Obligations.SchedulesKeepMemoryCanonical : Prop :=
  ∀ (font : FontData) (commands : List Command) (s : State), s.Inv → (performAll font commands s).Inv

/-- Memory is in its canonical form after reset, for every table FONT_DATA (R6, R59). -/
def Obligations.ResetMemoryIsCanonical : Prop := State.reset.Inv ∧ ∀ font : FontData, (State.resetWith font).Inv

/-- A byte that a step writes is the byte the next fetch reads (R67): FX55 over the two bytes at pc changes the
instruction that comes next. -/
def Obligations.StoredInstructionIsFetchedNext : Prop :=
  ∀ (s : State) (x : RegIdx), s.Inv → 1 ≤ x.toNat → s.index.toNat % 4096 = s.pc.toNat % 4096 →
    ∃ t, exec (.storeRegs x) s = .next t ∧ t.fetchWord.toNat = 256 * (s.reg 0x0#4).toNat + (s.reg 0x1#4).toNat

/-! ## Control transfer (40_flow.md) -/

/-- R110, the pop of R30 with at least one entry. -/
def Obligations.ReturnPopsIntoPc : Prop :=
  decodeWord 0x00EE#16 = some .ret ∧
  ∀ s : State, 0 < s.sp.val →
    ∃ t, exec .ret s = .next t ∧ (∀ h : s.sp.val - 1 < 12, t.pc = s.stack[s.sp.val - 1]) ∧
      t.sp.val = s.sp.val - 1 ∧ t.stack = s.stack ∧ Frame noRegs noCells [.stack] s t

/-- R110 with an empty stack (decision D9): the step has no effect but `fault = STACK_UNDERFLOW`. -/
def Obligations.ReturnOnEmptyStackFaults : Prop :=
  ∀ s : State, s.sp.val = 0 →
    exec .ret s = .next { s with fault := .stackUnderflow } ∧
    (s.runState = .running → s.fault = .none → decodeWord s.fetchWord = some .ret →
      step s = .next { s with fault := .stackUnderflow })

/-- R111. -/
def Obligations.JumpSetsPc : Prop :=
  ∀ nnn : Addr, decodeWord (0x1000#16 ||| nnn.zeroExtend 16) = some (.jump nnn) ∧
    ∀ s, ∃ t, exec (.jump nnn) s = .next t ∧ t.pc.toNat = nnn.toNat ∧ Frame noRegs noCells [] s t

/-- R112, the push of R29 with room. -/
def Obligations.CallPushesAndJumps : Prop :=
  ∀ nnn : Addr, decodeWord (0x2000#16 ||| nnn.zeroExtend 16) = some (.call nnn) ∧
    ∀ s : State, s.sp.val < 12 →
      ∃ t, exec (.call nnn) s = .next t ∧ t.pc.toNat = nnn.toNat ∧ t.sp.val = s.sp.val + 1 ∧
        (∀ k (h : k < 12), t.stack[k] = if k = s.sp.val then s.pc else s.stack[k]) ∧
        Frame noRegs noCells [.stack] s t

/-- R112 with 12 entries (decision D8): the step has no effect but `fault = STACK_OVERFLOW`. -/
def Obligations.CallOnFullStackFaults : Prop :=
  ∀ (nnn : Addr) (s : State), s.sp.val = 12 →
    exec (.call nnn) s = .next { s with fault := .stackOverflow } ∧
    (s.runState = .running → s.fault = .none → decodeWord s.fetchWord = some (.call nnn) →
      step s = .next { s with fault := .stackOverflow })

/-- R120: a call followed by the matching return restores pc to the instruction after the call, whatever ran between
them, as long as the stack is as the call left it. -/
def Obligations.CallThenReturnRestoresPc : Prop :=
  ∀ (nnn : Addr) (s : State), s.sp.val < 12 →
    ∃ t, exec (.call nnn) s = .next t ∧
      ∀ t' : State, t'.stack = t.stack → t'.sp = t.sp →
        ∃ u, exec .ret t' = .next u ∧ u.pc = s.pc ∧ u.sp = s.sp

/-- R113, R114, R118: the skips on an immediate. -/
def Obligations.SkipsOnImmediate : Prop :=
  ∀ (x : RegIdx) (nn : Byte),
    decodeWord (0x3000#16 ||| x.zeroExtend 16 <<< 8 ||| nn.zeroExtend 16) = some (.skipEqImm x nn) ∧
    decodeWord (0x4000#16 ||| x.zeroExtend 16 <<< 8 ||| nn.zeroExtend 16) = some (.skipNeImm x nn) ∧
    ∀ s : State,
      (∃ t, exec (.skipEqImm x nn) s = .next t ∧
        t.pc.toNat = (if s.reg x = nn then (s.pc.toNat + 2) % 65536 else s.pc.toNat) ∧ Frame noRegs noCells [] s t) ∧
      (∃ t, exec (.skipNeImm x nn) s = .next t ∧
        t.pc.toNat = (if s.reg x = nn then s.pc.toNat else (s.pc.toNat + 2) % 65536) ∧ Frame noRegs noCells [] s t)

/-- R115, R116: the skips on two registers, for every low nibble (the spec's own decision D7). -/
def Obligations.SkipsOnRegisters : Prop :=
  ∀ (x y : RegIdx) (n : Nibble),
    decodeWord (0x5000#16 ||| x.zeroExtend 16 <<< 8 ||| y.zeroExtend 16 <<< 4 ||| n.zeroExtend 16) =
      some (.skipEqReg x y n) ∧
    decodeWord (0x9000#16 ||| x.zeroExtend 16 <<< 8 ||| y.zeroExtend 16 <<< 4 ||| n.zeroExtend 16) =
      some (.skipNeReg x y n) ∧
    ∀ s : State,
      (∃ t, exec (.skipEqReg x y n) s = .next t ∧
        t.pc.toNat = (if s.reg x = s.reg y then (s.pc.toNat + 2) % 65536 else s.pc.toNat) ∧
        Frame noRegs noCells [] s t) ∧
      (∃ t, exec (.skipNeReg x y n) s = .next t ∧
        t.pc.toNat = (if s.reg x = s.reg y then s.pc.toNat else (s.pc.toNat + 2) % 65536) ∧
        Frame noRegs noCells [] s t)

/-- R117: the offset register is always reg[0], and the sum is not cut to 12 bits. -/
def Obligations.JumpOffsetAddsRegisterZero : Prop :=
  ∀ nnn : Addr, decodeWord (0xB000#16 ||| nnn.zeroExtend 16) = some (.jumpOffset nnn) ∧
    ∀ s : State, ∃ t, exec (.jumpOffset nnn) s = .next t ∧ t.pc.toNat = nnn.toNat + (s.reg 0x0#4).toNat ∧
      Frame noRegs noCells [] s t

/-! ## ALU (41_alu.md) -/

/-- R141. -/
def Obligations.LoadImmWritesTheByte : Prop :=
  ∀ (x : RegIdx) (nn : Byte),
    decodeWord (0x6000#16 ||| x.zeroExtend 16 <<< 8 ||| nn.zeroExtend 16) = some (.loadImm x nn) ∧
    ∀ s, ∃ t, exec (.loadImm x nn) s = .next t ∧ t.reg x = nn ∧ t.pc = s.pc ∧ Frame (· = x) noCells [] s t

/-- R142: 8-bit wraparound and no flag (reg[F] is written only where X is F, as data). -/
def Obligations.AddImmWrapsWithoutFlag : Prop :=
  ∀ (x : RegIdx) (nn : Byte),
    decodeWord (0x7000#16 ||| x.zeroExtend 16 <<< 8 ||| nn.zeroExtend 16) = some (.addImm x nn) ∧
    ∀ s : State, ∃ t, exec (.addImm x nn) s = .next t ∧ (t.reg x).toNat = ((s.reg x).toNat + nn.toNat) % 256 ∧
      t.pc = s.pc ∧ Frame (· = x) noCells [] s t

/-- R143. -/
def Obligations.MoveCopiesTheRegister : Prop :=
  ∀ x y : RegIdx,
    decodeWord (0x8000#16 ||| x.zeroExtend 16 <<< 8 ||| y.zeroExtend 16 <<< 4) = some (.move x y) ∧
    ∀ s : State, ∃ t, exec (.move x y) s = .next t ∧ t.reg x = s.reg y ∧ t.pc = s.pc ∧ Frame (· = x) noCells [] s t

/-- R144, R145, R146: the logic operations, bit by bit, with no flag. -/
def Obligations.LogicIsBitwiseWithoutFlag : Prop :=
  ∀ x y : RegIdx,
    decodeWord (0x8001#16 ||| x.zeroExtend 16 <<< 8 ||| y.zeroExtend 16 <<< 4) = some (.orReg x y) ∧
    decodeWord (0x8002#16 ||| x.zeroExtend 16 <<< 8 ||| y.zeroExtend 16 <<< 4) = some (.andReg x y) ∧
    decodeWord (0x8003#16 ||| x.zeroExtend 16 <<< 8 ||| y.zeroExtend 16 <<< 4) = some (.xorReg x y) ∧
    ∀ s : State,
      (∃ t, exec (.orReg x y) s = .next t ∧
        (∀ k, (t.reg x).getLsbD k = ((s.reg x).getLsbD k || (s.reg y).getLsbD k)) ∧
        t.pc = s.pc ∧ Frame (· = x) noCells [] s t) ∧
      (∃ t, exec (.andReg x y) s = .next t ∧
        (∀ k, (t.reg x).getLsbD k = ((s.reg x).getLsbD k && (s.reg y).getLsbD k)) ∧
        t.pc = s.pc ∧ Frame (· = x) noCells [] s t) ∧
      (∃ t, exec (.xorReg x y) s = .next t ∧
        (∀ k, (t.reg x).getLsbD k = ((s.reg x).getLsbD k ^^ (s.reg y).getLsbD k)) ∧
        t.pc = s.pc ∧ Frame (· = x) noCells [] s t)

/-- R147: the sum mod 256 in reg[X], the carry in reg[F], which wins where X is F. -/
def Obligations.AddSetsCarry : Prop :=
  ∀ x y : RegIdx,
    decodeWord (0x8004#16 ||| x.zeroExtend 16 <<< 8 ||| y.zeroExtend 16 <<< 4) = some (.add x y) ∧
    ∀ s : State, ∃ t, exec (.add x y) s = .next t ∧
      (t.reg 0xF#4).toNat = (if (s.reg x).toNat + (s.reg y).toNat > 255 then 1 else 0) ∧
      (x ≠ 0xF#4 → (t.reg x).toNat = ((s.reg x).toNat + (s.reg y).toNat) % 256) ∧
      t.pc = s.pc ∧ Frame (fun r => r = x ∨ r = 0xF#4) noCells [] s t

/-- R148, R150: the difference mod 256 in reg[X], NOT-borrow on the old values in reg[F], which wins where X is F. -/
def Obligations.SubtractionsSetNotBorrow : Prop :=
  ∀ x y : RegIdx,
    decodeWord (0x8005#16 ||| x.zeroExtend 16 <<< 8 ||| y.zeroExtend 16 <<< 4) = some (.sub x y) ∧
    decodeWord (0x8007#16 ||| x.zeroExtend 16 <<< 8 ||| y.zeroExtend 16 <<< 4) = some (.subReverse x y) ∧
    ∀ s : State,
      (∃ t, exec (.sub x y) s = .next t ∧
        (t.reg 0xF#4).toNat = (if (s.reg x).toNat ≥ (s.reg y).toNat then 1 else 0) ∧
        (x ≠ 0xF#4 → (t.reg x).toNat = ((s.reg x).toNat + 256 - (s.reg y).toNat) % 256) ∧
        t.pc = s.pc ∧ Frame (fun r => r = x ∨ r = 0xF#4) noCells [] s t) ∧
      (∃ t, exec (.subReverse x y) s = .next t ∧
        (t.reg 0xF#4).toNat = (if (s.reg y).toNat ≥ (s.reg x).toNat then 1 else 0) ∧
        (x ≠ 0xF#4 → (t.reg x).toNat = ((s.reg y).toNat + 256 - (s.reg x).toNat) % 256) ∧
        t.pc = s.pc ∧ Frame (fun r => r = x ∨ r = 0xF#4) noCells [] s t)

/-- R149, R151: shifts by one of reg[X] itself, the bit shifted out in reg[F], which wins where X is F; the Y field is
neither read nor written. -/
def Obligations.ShiftsMoveOneBitIntoTheFlag : Prop :=
  ∀ x y : RegIdx,
    decodeWord (0x8006#16 ||| x.zeroExtend 16 <<< 8 ||| y.zeroExtend 16 <<< 4) = some (.shiftRight x y) ∧
    decodeWord (0x800E#16 ||| x.zeroExtend 16 <<< 8 ||| y.zeroExtend 16 <<< 4) = some (.shiftLeft x y) ∧
    ∀ s : State,
      (∃ t, exec (.shiftRight x y) s = .next t ∧ (t.reg 0xF#4).toNat = (s.reg x).toNat % 2 ∧
        (x ≠ 0xF#4 → (t.reg x).toNat = (s.reg x).toNat / 2) ∧
        t.pc = s.pc ∧ Frame (fun r => r = x ∨ r = 0xF#4) noCells [] s t) ∧
      (∃ t, exec (.shiftLeft x y) s = .next t ∧ (t.reg 0xF#4).toNat = (s.reg x).toNat / 128 ∧
        (x ≠ 0xF#4 → (t.reg x).toNat = (s.reg x).toNat * 2 % 256) ∧
        t.pc = s.pc ∧ Frame (fun r => r = x ∨ r = 0xF#4) noCells [] s t)

/-- R152: reg[X] is the draw ANDed with NN, and the draw is consumed whatever NN is. How the draw is held (a supplied
byte first, a free value otherwise) is the model's choice, log entry 2; the statement holds for every draw. -/
def Obligations.RandomMasksOneConsumedDraw : Prop :=
  ∀ (x : RegIdx) (nn : Byte),
    decodeWord (0xC000#16 ||| x.zeroExtend 16 <<< 8 ||| nn.zeroExtend 16) = some (.random x nn) ∧
    ∀ s : State, ∃ t, exec (.random x nn) s = .next t ∧
      (∀ draw rest, s.rndQueue = draw :: rest →
        (∀ k, (t.reg x).getLsbD k = (draw.getLsbD k && nn.getLsbD k)) ∧ t.rndQueue = rest ∧ t.rndDrawn = s.rndDrawn) ∧
      (s.rndQueue = [] →
        (∀ k, (t.reg x).getLsbD k = ((Config.randomByte s.rndDrawn).getLsbD k && nn.getLsbD k)) ∧
          t.rndQueue = [] ∧ t.rndDrawn = s.rndDrawn + 1) ∧
      t.pc = s.pc ∧ Frame (· = x) noCells [.source] s t

/-! ## Index register and memory transfers (42_index_memory.md) -/

/-- R171. -/
def Obligations.LoadIndexSetsI : Prop :=
  ∀ nnn : Addr, decodeWord (0xA000#16 ||| nnn.zeroExtend 16) = some (.loadIndex nnn) ∧
    ∀ s : State, ∃ t, exec (.loadIndex nnn) s = .next t ∧ t.index.toNat = nnn.toNat ∧ t.pc = s.pc ∧
      Frame noRegs noCells [.index] s t

/-- R172 (mod 65536, the spec's own decision D15; no flag) and R173 (unmasked, decision D16). -/
def Obligations.IndexArithmetic : Prop :=
  ∀ x : RegIdx,
    decodeWord (0xF01E#16 ||| x.zeroExtend 16 <<< 8) = some (.addIndex x) ∧
    decodeWord (0xF029#16 ||| x.zeroExtend 16 <<< 8) = some (.fontAddress x) ∧
    ∀ s : State,
      (∃ t, exec (.addIndex x) s = .next t ∧ t.index.toNat = (s.index.toNat + (s.reg x).toNat) % 65536 ∧
        t.pc = s.pc ∧ Frame noRegs noCells [.index] s t) ∧
      (∃ t, exec (.fontAddress x) s = .next t ∧ t.index.toNat = (s.reg x).toNat * 5 ∧
        t.pc = s.pc ∧ Frame noRegs noCells [.index] s t)

/-- R174: the three decimal digits, hundreds first, each address mod 4096. -/
def Obligations.BcdStoresThreeDigits : Prop :=
  ∀ x : RegIdx, decodeWord (0xF033#16 ||| x.zeroExtend 16 <<< 8) = some (.bcd x) ∧
    ∀ s : State, s.Inv → ∃ t, exec (.bcd x) s = .next t ∧
      (t.memRead s.index.toNat).toNat = (s.reg x).toNat / 100 ∧
      (t.memRead (s.index.toNat + 1)).toNat = (s.reg x).toNat / 10 % 10 ∧
      (t.memRead (s.index.toNat + 2)).toNat = (s.reg x).toNat % 10 ∧
      t.pc = s.pc ∧ Frame noRegs (cellsFrom s.index.toNat 3) [] s t

/-- R175: reg[0] to reg[X] at I upward, each address mod 4096, I unchanged. -/
def Obligations.StoreRegsCopiesRegistersOut : Prop :=
  ∀ x : RegIdx, decodeWord (0xF055#16 ||| x.zeroExtend 16 <<< 8) = some (.storeRegs x) ∧
    ∀ s : State, s.Inv → ∃ t, exec (.storeRegs x) s = .next t ∧
      (∀ k : RegIdx, k.toNat ≤ x.toNat → t.memRead (s.index.toNat + k.toNat) = s.reg k) ∧
      t.pc = s.pc ∧ Frame noRegs (cellsFrom s.index.toNat (x.toNat + 1)) [] s t

/-- R176: reg[0] to reg[X] from I upward, each address mod 4096, I unchanged. -/
def Obligations.LoadRegsCopiesMemoryIn : Prop :=
  ∀ x : RegIdx, decodeWord (0xF065#16 ||| x.zeroExtend 16 <<< 8) = some (.loadRegs x) ∧
    ∀ s : State, ∃ t, exec (.loadRegs x) s = .next t ∧
      (∀ k : RegIdx, k.toNat ≤ x.toNat → t.reg k = s.memRead (s.index.toNat + k.toNat)) ∧
      t.pc = s.pc ∧ Frame (fun r => r.toNat ≤ x.toNat) noCells [] s t

/-! ## Display (43_display.md) -/

/-- R190. -/
def Obligations.ClearScreenTurnsEveryCellOff : Prop :=
  decodeWord 0x00E0#16 = some .clearScreen ∧
  ∀ s : State, ∃ t, exec .clearScreen s = .next t ∧ (∀ cx cy, cx < 64 → cy < 32 → t.pixel cx cy = false) ∧
    t.pc = s.pc ∧ Frame noRegs noCells [.fb] s t

/-- R192-R195: every cell becomes the XOR of itself and the sprite bit over it, clipped at the right and lower edge,
and reg[F] is 1 if and only if some cell was on under a set sprite bit, else 0. The coordinates are the registers' old
values (the spec's own decision D13). -/
def Obligations.DrawXorsTheClippedSprite : Prop :=
  ∀ (x y : RegIdx) (n : Nibble),
    decodeWord (0xD000#16 ||| x.zeroExtend 16 <<< 8 ||| y.zeroExtend 16 <<< 4 ||| n.zeroExtend 16) =
      some (.draw x y n) ∧
    ∀ s : State, ∃ t, exec (.draw x y n) s = .next t ∧
      (∀ cx cy, cx < 64 → cy < 32 → t.pixel cx cy = (s.pixel cx cy ^^ s.spriteOver x y n cx cy)) ∧
      (t.reg 0xF#4 = 0x01#8 ↔ ∃ cx cy, cx < 64 ∧ cy < 32 ∧ s.pixel cx cy = true ∧ s.spriteOver x y n cx cy = true) ∧
      (t.reg 0xF#4 = 0x00#8 ∨ t.reg 0xF#4 = 0x01#8) ∧
      t.pc = s.pc ∧ Frame (· = 0xF#4) noCells [.fb] s t

/-- The self-inverse of R192: a second DXYN with the same coordinates, N, I and sprite bytes on the framebuffer the
first left restores every cell, and sets reg[F] to 1 exactly when some drawn sprite bit is 1 over a cell that was off
before the first. R196 words the last part without "that was off before the first", which R192's algorithm does not
give where the sprite met a cell that was on; conflict C5 lets the algorithm win (log entry 13). -/
def Obligations.DrawTwiceRestoresTheScreen : Prop :=
  ∀ (x y : RegIdx) (n : Nibble) (s : State), ∃ t, exec (.draw x y n) s = .next t ∧
    ∀ s' : State, s'.fb = t.fb → s'.index = s.index →
      (s'.reg x).toNat % 64 = (s.reg x).toNat % 64 → (s'.reg y).toNat % 32 = (s.reg y).toNat % 32 →
      (∀ r, r < n.toNat → s'.memRead (s.index.toNat + r) = s.memRead (s.index.toNat + r)) →
      ∃ u, exec (.draw x y n) s' = .next u ∧
        (∀ cx cy, cx < 64 → cy < 32 → u.pixel cx cy = s.pixel cx cy) ∧
        (u.reg 0xF#4 = 0x01#8 ↔
          ∃ cx cy, cx < 64 ∧ cy < 32 ∧ s.pixel cx cy = false ∧ s.spriteOver x y n cx cy = true)

/-- R33, R246: the framebuffer output has cell (x, y) at bit y * 64 + x, and nothing above bit 2047. -/
def Obligations.FramebufferOutputIsRowMajor : Prop :=
  ∀ s : State, s.fbOut < 2 ^ 2048 ∧
    ∀ cx cy, cx < 64 → cy < 32 → s.fbOut.testBit (cy * 64 + cx) = s.pixel cx cy

/-! ## Keypad and timers (44_keypad_timer.md, 60_exceptions.md) -/

/-- R210, R211 with a key index of 0 to 15. -/
def Obligations.SkipsOnKey : Prop :=
  ∀ x : RegIdx,
    decodeWord (0xE09E#16 ||| x.zeroExtend 16 <<< 8) = some (.skipIfKey x) ∧
    decodeWord (0xE0A1#16 ||| x.zeroExtend 16 <<< 8) = some (.skipIfNotKey x) ∧
    ∀ s : State, (s.reg x).toNat ≤ 15 →
      (∃ t, exec (.skipIfKey x) s = .next t ∧
        t.pc.toNat = (if s.keypad.getLsbD (s.reg x).toNat then (s.pc.toNat + 2) % 65536 else s.pc.toNat) ∧
        Frame noRegs noCells [] s t) ∧
      (∃ t, exec (.skipIfNotKey x) s = .next t ∧
        t.pc.toNat = (if s.keypad.getLsbD (s.reg x).toNat then s.pc.toNat else (s.pc.toNat + 2) % 65536) ∧
        Frame noRegs noCells [] s t)

/-- R210, R211 with a key index above 15 (the spec's own decision D11): the step has no effect but
`fault = KEY_INDEX_RANGE`. -/
def Obligations.KeyIndexOutOfRangeFaults : Prop :=
  ∀ (x : RegIdx) (s : State), (s.reg x).toNat > 15 →
    exec (.skipIfKey x) s = .next { s with fault := .keyIndexRange } ∧
    exec (.skipIfNotKey x) s = .next { s with fault := .keyIndexRange } ∧
    (s.runState = .running → s.fault = .none →
      decodeWord s.fetchWord = some (.skipIfKey x) ∨ decodeWord s.fetchWord = some (.skipIfNotKey x) →
      step s = .next { s with fault := .keyIndexRange })

/-- R212 with no key down: pc goes back by 2 (to A, since it held P) and nothing else changes. -/
def Obligations.WaitKeyRefetchesWithNoKeyDown : Prop :=
  ∀ x : RegIdx, decodeWord (0xF00A#16 ||| x.zeroExtend 16 <<< 8) = some (.waitKey x) ∧
    ∀ s : State, (∀ k, k < 16 → s.keypad.getLsbD k = false) →
      ∃ t, exec (.waitKey x) s = .next t ∧ t.pc.toNat = (s.pc.toNat + 65536 - 2) % 65536 ∧
        Frame noRegs noCells [] s t

/-- R212 with key `k` down and every lower one up (the lowest is taken, the spec's own decision D12). -/
def Obligations.WaitKeyTakesTheLowestKey : Prop :=
  ∀ (x : RegIdx) (s : State) (k : Nat), s.keypad.getLsbD k = true → (∀ j, j < k → s.keypad.getLsbD j = false) →
    ∃ t, exec (.waitKey x) s = .next t ∧ (t.reg x).toNat = k ∧ t.pc = s.pc ∧ Frame (· = x) noCells [] s t

/-- R213, R214, R215. -/
def Obligations.TimerInstructionsMoveTheTimers : Prop :=
  ∀ x : RegIdx,
    decodeWord (0xF007#16 ||| x.zeroExtend 16 <<< 8) = some (.readDelay x) ∧
    decodeWord (0xF015#16 ||| x.zeroExtend 16 <<< 8) = some (.writeDelay x) ∧
    decodeWord (0xF018#16 ||| x.zeroExtend 16 <<< 8) = some (.writeSound x) ∧
    ∀ s : State,
      (∃ t, exec (.readDelay x) s = .next t ∧ t.reg x = s.delayTimer ∧ t.pc = s.pc ∧ Frame (· = x) noCells [] s t) ∧
      (∃ t, exec (.writeDelay x) s = .next t ∧ t.delayTimer = s.reg x ∧ t.pc = s.pc ∧
        Frame noRegs noCells [.delay] s t) ∧
      (∃ t, exec (.writeSound x) s = .next t ∧ t.soundTimer = s.reg x ∧ t.pc = s.pc ∧
        Frame noRegs noCells [.sound] s t)

/-- R240: k ticks that act take each timer down by k, floored at 0, independently, and change nothing else. -/
def Obligations.TicksCountDownToZero : Prop :=
  ∀ (s : State) (k : Nat), s.runState = .running → s.fault = .none →
    (tick^[k] s).delayTimer.toNat = s.delayTimer.toNat - k ∧
    (tick^[k] s).soundTimer.toNat = s.soundTimer.toNat - k ∧
    (tick^[k] s).pc = s.pc ∧ Frame noRegs noCells [.delay, .sound] s (tick^[k] s)

/-! ## Run state and host commands (60_exceptions.md R248-R253, 70_reset_and_hazards.md) -/

/-- R241, R249, R250: TOGGLE_PAUSE, QUIT and the tick's gate, and a Halted machine leaves Halted by RESET only (the
commands are the spec's own decision D22). -/
def Obligations.RunStateMachine : Prop :=
  ∀ (font : FontData) (s : State),
    togglePause s = { s with runState := match s.runState with
      | .running => .paused
      | .paused => .running
      | .halted => .halted } ∧
    quit s = { s with runState := .halted } ∧
    (s.runState ≠ .running ∨ s.fault ≠ .none → tick s = s) ∧
    (s.runState = .halted → ∀ c : Command, c ≠ .reset → (perform font c s).runState = .halted)

/-- R273 (what LOAD leaves alone is the spec's own decision D20): at most 3584 bytes go to 0x200 upward, and nothing
else changes. -/
def Obligations.LoadCopiesTheProgram : Prop :=
  ∀ (s : State) (bytes : List Byte), s.Inv → bytes.length ≤ 3584 →
    (load bytes s).1 = .ok ∧
    (∀ k (h : k < bytes.length), (load bytes s).2.memRead (0x200 + k) = bytes[k]) ∧
    (load bytes s).2.pc = s.pc ∧ Frame noRegs (cellsFrom 0x200 bytes.length) [] s (load bytes s).2

/-- R274: more than 3584 bytes change nothing, the fault register included; exactly 3584 bytes load. -/
def Obligations.LoadRefusesTooLargeAProgram : Prop :=
  ∀ (s : State) (bytes : List Byte),
    (bytes.length > 3584 → load bytes s = (.programTooLarge, s)) ∧ (bytes.length = 3584 → (load bytes s).1 = .ok)

/-- R42, R270, R271: RESET, from any state. The values at 0x000-0x04F are those of FONT_DATA, whatever table the block is
given (R6, R59). The last two clauses are about the spec's default table, from general knowledge (log entry 1): the
model's `State.reset` is the reset state with it. -/
def Obligations.ResetValues : Prop :=
  ∀ (font : FontData) (s : State),
    (∀ r, (perform font .reset s).reg r = 0x00#8) ∧
    (∀ a (h : a < 80), (perform font .reset s).memRead a = font[a]) ∧
    (∀ a, 80 ≤ a → a < 4096 → (perform font .reset s).memRead a = 0) ∧
    (perform font .reset s).index = 0 ∧ (perform font .reset s).pc = 0x200 ∧
    (∀ k (h : k < 12), (perform font .reset s).stack[k] = 0) ∧ (perform font .reset s).sp = 0 ∧
    (perform font .reset s).delayTimer = 0 ∧ (perform font .reset s).soundTimer = 0 ∧
    (∀ cx cy, cx < 64 → cy < 32 → (perform font .reset s).pixel cx cy = false) ∧
    (perform font .reset s).keypad = 0 ∧ (perform font .reset s).runState = .running ∧
    (perform font .reset s).fault = .none ∧ (perform font .reset s).ir = 0 ∧
    State.resetWith defaultFont = State.reset ∧ perform defaultFont .reset State.reset = State.reset
end

