-- ==== Sys2Proof/Laws/Decode.lean ====
section
/-! SUPPORT. The fields of a word bit by bit (30_encoding.md R81), and the placed operands of an encoded word: what is
needed to read an encoded instruction's fields back and to see which row of R86 selects it. -/

namespace Sys2Proof

theorem getLsbD_fieldX (w : Word) {k : Nat} (hk : k < 4) : (fieldX w).getLsbD k = w.getLsbD (8 + k) := by
  simp [fieldX, hk]

theorem getLsbD_fieldY (w : Word) {k : Nat} (hk : k < 4) : (fieldY w).getLsbD k = w.getLsbD (4 + k) := by
  simp [fieldY, hk]

theorem getLsbD_fieldN (w : Word) {k : Nat} (hk : k < 4) : (fieldN w).getLsbD k = w.getLsbD k := by
  simp [fieldN, hk]

theorem getLsbD_fieldNN (w : Word) {k : Nat} (hk : k < 8) : (fieldNN w).getLsbD k = w.getLsbD k := by
  simp [fieldNN, hk]

theorem getLsbD_fieldNNN (w : Word) {k : Nat} (hk : k < 12) : (fieldNNN w).getLsbD k = w.getLsbD k := by
  simp [fieldNNN, hk]

theorem getLsbD_atX (x : RegIdx) (k : Nat) : (atX x).getLsbD k = (decide (8 ≤ k) && x.getLsbD (k - 8)) := by
  simp only [atX, BitVec.truncate_eq_setWidth, BitVec.getLsbD_shiftLeft, BitVec.getLsbD_setWidth]
  by_cases h : k - 8 < 4
  · have h1 : k < 16 := by omega
    have h2 : k - 8 < 16 := by omega
    by_cases h3 : k < 8
    · have h4 : ¬ 8 ≤ k := by omega
      simp [h3, h4]
    · have h4 : 8 ≤ k := by omega
      simp [h1, h2, h3, h4]
  · rw [BitVec.getLsbD_of_ge x _ (by omega)]
    simp

theorem getLsbD_atY (y : RegIdx) (k : Nat) : (atY y).getLsbD k = (decide (4 ≤ k) && y.getLsbD (k - 4)) := by
  simp only [atY, BitVec.truncate_eq_setWidth, BitVec.getLsbD_shiftLeft, BitVec.getLsbD_setWidth]
  by_cases h : k - 4 < 4
  · have h1 : k < 16 := by omega
    have h2 : k - 4 < 16 := by omega
    by_cases h3 : k < 4
    · have h4 : ¬ 4 ≤ k := by omega
      simp [h3, h4]
    · have h4 : 4 ≤ k := by omega
      simp [h1, h2, h3, h4]
  · rw [BitVec.getLsbD_of_ge y _ (by omega)]
    simp

theorem getLsbD_atN (n : Nibble) (k : Nat) : (atN n).getLsbD k = n.getLsbD k := by
  simp only [atN, BitVec.truncate_eq_setWidth, BitVec.getLsbD_setWidth]
  by_cases h : k < 16
  · simp [h]
  · rw [BitVec.getLsbD_of_ge n _ (by omega)]; simp

theorem getLsbD_atNN (nn : Byte) (k : Nat) : (atNN nn).getLsbD k = nn.getLsbD k := by
  simp only [atNN, BitVec.truncate_eq_setWidth, BitVec.getLsbD_setWidth]
  by_cases h : k < 16
  · simp [h]
  · rw [BitVec.getLsbD_of_ge nn _ (by omega)]; simp

theorem getLsbD_atNNN (nnn : Addr) (k : Nat) : (atNNN nnn).getLsbD k = nnn.getLsbD k := by
  simp only [atNNN, BitVec.truncate_eq_setWidth, BitVec.getLsbD_setWidth]
  by_cases h : k < 16
  · simp [h]
  · rw [BitVec.getLsbD_of_ge nnn _ (by omega)]; simp

/-! ### The placed operands' fields -/

@[simp] theorem fieldX_or (a b : Word) : fieldX (a ||| b) = fieldX a ||| fieldX b := by
  apply BitVec.eq_of_getLsbD_eq; intro k hk; simp [getLsbD_fieldX _ hk]

@[simp] theorem fieldY_or (a b : Word) : fieldY (a ||| b) = fieldY a ||| fieldY b := by
  apply BitVec.eq_of_getLsbD_eq; intro k hk; simp [getLsbD_fieldY _ hk]

@[simp] theorem fieldN_or (a b : Word) : fieldN (a ||| b) = fieldN a ||| fieldN b := by
  apply BitVec.eq_of_getLsbD_eq; intro k hk; simp [getLsbD_fieldN _ hk]

@[simp] theorem fieldNN_or (a b : Word) : fieldNN (a ||| b) = fieldNN a ||| fieldNN b := by
  apply BitVec.eq_of_getLsbD_eq; intro k hk; simp [getLsbD_fieldNN _ hk]

@[simp] theorem fieldNNN_or (a b : Word) : fieldNNN (a ||| b) = fieldNNN a ||| fieldNNN b := by
  apply BitVec.eq_of_getLsbD_eq; intro k hk; simp [getLsbD_fieldNNN _ hk]

@[simp] theorem fieldX_atX (x : RegIdx) : fieldX (atX x) = x := by
  apply BitVec.eq_of_getLsbD_eq; intro k hk; simp [getLsbD_fieldX _ hk, getLsbD_atX]

@[simp] theorem fieldX_atY (y : RegIdx) : fieldX (atY y) = 0#4 := by
  apply BitVec.eq_of_getLsbD_eq; intro k hk
  simp only [getLsbD_fieldX _ hk, getLsbD_atY, BitVec.getLsbD_zero]
  rw [BitVec.getLsbD_of_ge y _ (by omega), Bool.and_false]

@[simp] theorem fieldX_atN (n : Nibble) : fieldX (atN n) = 0#4 := by
  apply BitVec.eq_of_getLsbD_eq; intro k hk
  simp only [getLsbD_fieldX _ hk, getLsbD_atN, BitVec.getLsbD_zero]
  rw [BitVec.getLsbD_of_ge n _ (by omega)]

@[simp] theorem fieldX_atNN (nn : Byte) : fieldX (atNN nn) = 0#4 := by
  apply BitVec.eq_of_getLsbD_eq; intro k hk
  simp only [getLsbD_fieldX _ hk, getLsbD_atNN, BitVec.getLsbD_zero]
  rw [BitVec.getLsbD_of_ge nn _ (by omega)]

@[simp] theorem fieldY_atX (x : RegIdx) : fieldY (atX x) = 0#4 := by
  apply BitVec.eq_of_getLsbD_eq; intro k hk
  have : ¬ 8 ≤ 4 + k := by omega
  simp [getLsbD_fieldY _ hk, getLsbD_atX, this]

@[simp] theorem fieldY_atY (y : RegIdx) : fieldY (atY y) = y := by
  apply BitVec.eq_of_getLsbD_eq; intro k hk; simp [getLsbD_fieldY _ hk, getLsbD_atY]

@[simp] theorem fieldY_atN (n : Nibble) : fieldY (atN n) = 0#4 := by
  apply BitVec.eq_of_getLsbD_eq; intro k hk
  simp only [getLsbD_fieldY _ hk, getLsbD_atN, BitVec.getLsbD_zero]
  rw [BitVec.getLsbD_of_ge n _ (by omega)]

@[simp] theorem fieldN_atX (x : RegIdx) : fieldN (atX x) = 0#4 := by
  apply BitVec.eq_of_getLsbD_eq; intro k hk
  have : ¬ 8 ≤ k := by omega
  simp [getLsbD_fieldN _ hk, getLsbD_atX, this]

@[simp] theorem fieldN_atY (y : RegIdx) : fieldN (atY y) = 0#4 := by
  apply BitVec.eq_of_getLsbD_eq; intro k hk
  have : ¬ 4 ≤ k := by omega
  simp [getLsbD_fieldN _ hk, getLsbD_atY, this]

@[simp] theorem fieldN_atN (n : Nibble) : fieldN (atN n) = n := by
  apply BitVec.eq_of_getLsbD_eq; intro k hk; simp [getLsbD_fieldN _ hk, getLsbD_atN]

@[simp] theorem fieldNN_atX (x : RegIdx) : fieldNN (atX x) = 0#8 := by
  apply BitVec.eq_of_getLsbD_eq; intro k hk
  have : ¬ 8 ≤ k := by omega
  simp [getLsbD_fieldNN _ hk, getLsbD_atX, this]

@[simp] theorem fieldNN_atNN (nn : Byte) : fieldNN (atNN nn) = nn := by
  apply BitVec.eq_of_getLsbD_eq; intro k hk; simp [getLsbD_fieldNN _ hk, getLsbD_atNN]

@[simp] theorem fieldNNN_atNNN (nnn : Addr) : fieldNNN (atNNN nnn) = nnn := by
  apply BitVec.eq_of_getLsbD_eq; intro k hk; simp [getLsbD_fieldNNN _ hk, getLsbD_atNNN]

/-! ### The placed operands under a row's mask (R86) -/

/-- A word none of whose bits lies in a mask. -/
theorem and_eq_zero_of_bits {a m : Word} (h : ∀ k < 16, m.getLsbD k = true → a.getLsbD k = false) :
    a &&& m = 0#16 := by
  apply BitVec.eq_of_getLsbD_eq; intro k hk
  rw [BitVec.getLsbD_and, BitVec.getLsbD_zero]
  cases hm : m.getLsbD k
  · simp
  · simp [h k hk hm]

/-- X lies outside the masks 0xF000, 0xF00F and 0xF0FF. -/
theorem atX_outside (x : RegIdx) : atX x &&& 0xF000#16 = 0#16 ∧ atX x &&& 0xF00F#16 = 0#16 ∧
    atX x &&& 0xF0FF#16 = 0#16 := by
  refine ⟨?_, ?_, ?_⟩ <;>
    (apply and_eq_zero_of_bits; intro k hk; rw [getLsbD_atX]; interval_cases k <;> simp)

/-- Y lies outside the masks 0xF000 and 0xF00F. -/
theorem atY_outside (y : RegIdx) : atY y &&& 0xF000#16 = 0#16 ∧ atY y &&& 0xF00F#16 = 0#16 := by
  refine ⟨?_, ?_⟩ <;>
    (apply and_eq_zero_of_bits; intro k hk; rw [getLsbD_atY]; interval_cases k <;> simp)

theorem atN_outside (n : Nibble) : atN n &&& 0xF000#16 = 0#16 := by
  apply and_eq_zero_of_bits; intro k hk; rw [getLsbD_atN]; interval_cases k <;> simp

theorem atNN_outside (nn : Byte) : atNN nn &&& 0xF000#16 = 0#16 := by
  apply and_eq_zero_of_bits; intro k hk; rw [getLsbD_atNN]; interval_cases k <;> simp

theorem atNNN_outside (nnn : Addr) : atNNN nnn &&& 0xF000#16 = 0#16 := by
  apply and_eq_zero_of_bits; intro k hk; rw [getLsbD_atNNN]; interval_cases k <;> simp

/-- A mask keeps each operand's share of a placed word apart. -/
theorem or_and_mask (a b m : Word) : (a ||| b) &&& m = (a &&& m) ||| (b &&& m) := by
  apply BitVec.eq_of_getLsbD_eq; intro k _
  simp [Bool.and_or_distrib_right]

end Sys2Proof
end

