-- ==== Sys2Proof/Laws/State.lean ====
section
/-! SUPPORT. One lemma per field per update of the state, each true by rfl: no later proof unfolds a record update. -/

namespace Sys2Proof.Machine

variable (s : State)

/-! ### setReg -/

@[simp] theorem State.setReg_mem (r : RegIdx) (v : Byte) : (s.setReg r v).mem = s.mem := rfl
@[simp] theorem State.setReg_index (r : RegIdx) (v : Byte) : (s.setReg r v).index = s.index := rfl
@[simp] theorem State.setReg_pc (r : RegIdx) (v : Byte) : (s.setReg r v).pc = s.pc := rfl
@[simp] theorem State.setReg_stack (r : RegIdx) (v : Byte) : (s.setReg r v).stack = s.stack := rfl
@[simp] theorem State.setReg_sp (r : RegIdx) (v : Byte) : (s.setReg r v).sp = s.sp := rfl
@[simp] theorem State.setReg_delayTimer (r : RegIdx) (v : Byte) : (s.setReg r v).delayTimer = s.delayTimer := rfl
@[simp] theorem State.setReg_soundTimer (r : RegIdx) (v : Byte) : (s.setReg r v).soundTimer = s.soundTimer := rfl
@[simp] theorem State.setReg_fb (r : RegIdx) (v : Byte) : (s.setReg r v).fb = s.fb := rfl
@[simp] theorem State.setReg_keypad (r : RegIdx) (v : Byte) : (s.setReg r v).keypad = s.keypad := rfl
@[simp] theorem State.setReg_runState (r : RegIdx) (v : Byte) : (s.setReg r v).runState = s.runState := rfl
@[simp] theorem State.setReg_fault (r : RegIdx) (v : Byte) : (s.setReg r v).fault = s.fault := rfl
@[simp] theorem State.setReg_ir (r : RegIdx) (v : Byte) : (s.setReg r v).ir = s.ir := rfl
@[simp] theorem State.setReg_rndQueue (r : RegIdx) (v : Byte) : (s.setReg r v).rndQueue = s.rndQueue := rfl
@[simp] theorem State.setReg_rndDrawn (r : RegIdx) (v : Byte) : (s.setReg r v).rndDrawn = s.rndDrawn := rfl

@[simp] theorem State.setReg_memRead (r : RegIdx) (v : Byte) (q : Nat) : (s.setReg r v).memRead q = s.memRead q := rfl

/-! ### memWrite -/

@[simp] theorem State.memWrite_mem (a : Nat) (v : Byte) : (s.memWrite a v).mem = Memory.write s.mem (a % 4096) v := rfl
@[simp] theorem State.memWrite_regs (a : Nat) (v : Byte) : (s.memWrite a v).regs = s.regs := rfl
@[simp] theorem State.memWrite_index (a : Nat) (v : Byte) : (s.memWrite a v).index = s.index := rfl
@[simp] theorem State.memWrite_pc (a : Nat) (v : Byte) : (s.memWrite a v).pc = s.pc := rfl
@[simp] theorem State.memWrite_stack (a : Nat) (v : Byte) : (s.memWrite a v).stack = s.stack := rfl
@[simp] theorem State.memWrite_sp (a : Nat) (v : Byte) : (s.memWrite a v).sp = s.sp := rfl
@[simp] theorem State.memWrite_delayTimer (a : Nat) (v : Byte) : (s.memWrite a v).delayTimer = s.delayTimer := rfl
@[simp] theorem State.memWrite_soundTimer (a : Nat) (v : Byte) : (s.memWrite a v).soundTimer = s.soundTimer := rfl
@[simp] theorem State.memWrite_fb (a : Nat) (v : Byte) : (s.memWrite a v).fb = s.fb := rfl
@[simp] theorem State.memWrite_keypad (a : Nat) (v : Byte) : (s.memWrite a v).keypad = s.keypad := rfl
@[simp] theorem State.memWrite_runState (a : Nat) (v : Byte) : (s.memWrite a v).runState = s.runState := rfl
@[simp] theorem State.memWrite_fault (a : Nat) (v : Byte) : (s.memWrite a v).fault = s.fault := rfl
@[simp] theorem State.memWrite_ir (a : Nat) (v : Byte) : (s.memWrite a v).ir = s.ir := rfl
@[simp] theorem State.memWrite_rndQueue (a : Nat) (v : Byte) : (s.memWrite a v).rndQueue = s.rndQueue := rfl
@[simp] theorem State.memWrite_rndDrawn (a : Nat) (v : Byte) : (s.memWrite a v).rndDrawn = s.rndDrawn := rfl

@[simp] theorem State.memWrite_reg (a : Nat) (v : Byte) (q : RegIdx) : (s.memWrite a v).reg q = s.reg q := rfl

/-! ### setIndex -/

@[simp] theorem State.setIndex_mem (v : Word) : (s.setIndex v).mem = s.mem := rfl
@[simp] theorem State.setIndex_regs (v : Word) : (s.setIndex v).regs = s.regs := rfl
@[simp] theorem State.setIndex_index (v : Word) : (s.setIndex v).index = v := rfl
@[simp] theorem State.setIndex_pc (v : Word) : (s.setIndex v).pc = s.pc := rfl
@[simp] theorem State.setIndex_stack (v : Word) : (s.setIndex v).stack = s.stack := rfl
@[simp] theorem State.setIndex_sp (v : Word) : (s.setIndex v).sp = s.sp := rfl
@[simp] theorem State.setIndex_delayTimer (v : Word) : (s.setIndex v).delayTimer = s.delayTimer := rfl
@[simp] theorem State.setIndex_soundTimer (v : Word) : (s.setIndex v).soundTimer = s.soundTimer := rfl
@[simp] theorem State.setIndex_fb (v : Word) : (s.setIndex v).fb = s.fb := rfl
@[simp] theorem State.setIndex_keypad (v : Word) : (s.setIndex v).keypad = s.keypad := rfl
@[simp] theorem State.setIndex_runState (v : Word) : (s.setIndex v).runState = s.runState := rfl
@[simp] theorem State.setIndex_fault (v : Word) : (s.setIndex v).fault = s.fault := rfl
@[simp] theorem State.setIndex_ir (v : Word) : (s.setIndex v).ir = s.ir := rfl
@[simp] theorem State.setIndex_rndQueue (v : Word) : (s.setIndex v).rndQueue = s.rndQueue := rfl
@[simp] theorem State.setIndex_rndDrawn (v : Word) : (s.setIndex v).rndDrawn = s.rndDrawn := rfl

@[simp] theorem State.setIndex_reg (v : Word) (q : RegIdx) : (s.setIndex v).reg q = s.reg q := rfl

@[simp] theorem State.setIndex_memRead (v : Word) (q : Nat) : (s.setIndex v).memRead q = s.memRead q := rfl

/-! ### setPc -/

@[simp] theorem State.setPc_mem (v : Word) : (s.setPc v).mem = s.mem := rfl
@[simp] theorem State.setPc_regs (v : Word) : (s.setPc v).regs = s.regs := rfl
@[simp] theorem State.setPc_index (v : Word) : (s.setPc v).index = s.index := rfl
@[simp] theorem State.setPc_pc (v : Word) : (s.setPc v).pc = v := rfl
@[simp] theorem State.setPc_stack (v : Word) : (s.setPc v).stack = s.stack := rfl
@[simp] theorem State.setPc_sp (v : Word) : (s.setPc v).sp = s.sp := rfl
@[simp] theorem State.setPc_delayTimer (v : Word) : (s.setPc v).delayTimer = s.delayTimer := rfl
@[simp] theorem State.setPc_soundTimer (v : Word) : (s.setPc v).soundTimer = s.soundTimer := rfl
@[simp] theorem State.setPc_fb (v : Word) : (s.setPc v).fb = s.fb := rfl
@[simp] theorem State.setPc_keypad (v : Word) : (s.setPc v).keypad = s.keypad := rfl
@[simp] theorem State.setPc_runState (v : Word) : (s.setPc v).runState = s.runState := rfl
@[simp] theorem State.setPc_fault (v : Word) : (s.setPc v).fault = s.fault := rfl
@[simp] theorem State.setPc_ir (v : Word) : (s.setPc v).ir = s.ir := rfl
@[simp] theorem State.setPc_rndQueue (v : Word) : (s.setPc v).rndQueue = s.rndQueue := rfl
@[simp] theorem State.setPc_rndDrawn (v : Word) : (s.setPc v).rndDrawn = s.rndDrawn := rfl

@[simp] theorem State.setPc_reg (v : Word) (q : RegIdx) : (s.setPc v).reg q = s.reg q := rfl

@[simp] theorem State.setPc_memRead (v : Word) (q : Nat) : (s.setPc v).memRead q = s.memRead q := rfl

/-! ### setDelay -/

@[simp] theorem State.setDelay_mem (v : Byte) : (s.setDelay v).mem = s.mem := rfl
@[simp] theorem State.setDelay_regs (v : Byte) : (s.setDelay v).regs = s.regs := rfl
@[simp] theorem State.setDelay_index (v : Byte) : (s.setDelay v).index = s.index := rfl
@[simp] theorem State.setDelay_pc (v : Byte) : (s.setDelay v).pc = s.pc := rfl
@[simp] theorem State.setDelay_stack (v : Byte) : (s.setDelay v).stack = s.stack := rfl
@[simp] theorem State.setDelay_sp (v : Byte) : (s.setDelay v).sp = s.sp := rfl
@[simp] theorem State.setDelay_delayTimer (v : Byte) : (s.setDelay v).delayTimer = v := rfl
@[simp] theorem State.setDelay_soundTimer (v : Byte) : (s.setDelay v).soundTimer = s.soundTimer := rfl
@[simp] theorem State.setDelay_fb (v : Byte) : (s.setDelay v).fb = s.fb := rfl
@[simp] theorem State.setDelay_keypad (v : Byte) : (s.setDelay v).keypad = s.keypad := rfl
@[simp] theorem State.setDelay_runState (v : Byte) : (s.setDelay v).runState = s.runState := rfl
@[simp] theorem State.setDelay_fault (v : Byte) : (s.setDelay v).fault = s.fault := rfl
@[simp] theorem State.setDelay_ir (v : Byte) : (s.setDelay v).ir = s.ir := rfl
@[simp] theorem State.setDelay_rndQueue (v : Byte) : (s.setDelay v).rndQueue = s.rndQueue := rfl
@[simp] theorem State.setDelay_rndDrawn (v : Byte) : (s.setDelay v).rndDrawn = s.rndDrawn := rfl

@[simp] theorem State.setDelay_reg (v : Byte) (q : RegIdx) : (s.setDelay v).reg q = s.reg q := rfl

@[simp] theorem State.setDelay_memRead (v : Byte) (q : Nat) : (s.setDelay v).memRead q = s.memRead q := rfl

/-! ### setSound -/

@[simp] theorem State.setSound_mem (v : Byte) : (s.setSound v).mem = s.mem := rfl
@[simp] theorem State.setSound_regs (v : Byte) : (s.setSound v).regs = s.regs := rfl
@[simp] theorem State.setSound_index (v : Byte) : (s.setSound v).index = s.index := rfl
@[simp] theorem State.setSound_pc (v : Byte) : (s.setSound v).pc = s.pc := rfl
@[simp] theorem State.setSound_stack (v : Byte) : (s.setSound v).stack = s.stack := rfl
@[simp] theorem State.setSound_sp (v : Byte) : (s.setSound v).sp = s.sp := rfl
@[simp] theorem State.setSound_delayTimer (v : Byte) : (s.setSound v).delayTimer = s.delayTimer := rfl
@[simp] theorem State.setSound_soundTimer (v : Byte) : (s.setSound v).soundTimer = v := rfl
@[simp] theorem State.setSound_fb (v : Byte) : (s.setSound v).fb = s.fb := rfl
@[simp] theorem State.setSound_keypad (v : Byte) : (s.setSound v).keypad = s.keypad := rfl
@[simp] theorem State.setSound_runState (v : Byte) : (s.setSound v).runState = s.runState := rfl
@[simp] theorem State.setSound_fault (v : Byte) : (s.setSound v).fault = s.fault := rfl
@[simp] theorem State.setSound_ir (v : Byte) : (s.setSound v).ir = s.ir := rfl
@[simp] theorem State.setSound_rndQueue (v : Byte) : (s.setSound v).rndQueue = s.rndQueue := rfl
@[simp] theorem State.setSound_rndDrawn (v : Byte) : (s.setSound v).rndDrawn = s.rndDrawn := rfl

@[simp] theorem State.setSound_reg (v : Byte) (q : RegIdx) : (s.setSound v).reg q = s.reg q := rfl

@[simp] theorem State.setSound_memRead (v : Byte) (q : Nat) : (s.setSound v).memRead q = s.memRead q := rfl

/-! ### setFb -/

@[simp] theorem State.setFb_mem (v : Framebuffer) : (s.setFb v).mem = s.mem := rfl
@[simp] theorem State.setFb_regs (v : Framebuffer) : (s.setFb v).regs = s.regs := rfl
@[simp] theorem State.setFb_index (v : Framebuffer) : (s.setFb v).index = s.index := rfl
@[simp] theorem State.setFb_pc (v : Framebuffer) : (s.setFb v).pc = s.pc := rfl
@[simp] theorem State.setFb_stack (v : Framebuffer) : (s.setFb v).stack = s.stack := rfl
@[simp] theorem State.setFb_sp (v : Framebuffer) : (s.setFb v).sp = s.sp := rfl
@[simp] theorem State.setFb_delayTimer (v : Framebuffer) : (s.setFb v).delayTimer = s.delayTimer := rfl
@[simp] theorem State.setFb_soundTimer (v : Framebuffer) : (s.setFb v).soundTimer = s.soundTimer := rfl
@[simp] theorem State.setFb_fb (v : Framebuffer) : (s.setFb v).fb = v := rfl
@[simp] theorem State.setFb_keypad (v : Framebuffer) : (s.setFb v).keypad = s.keypad := rfl
@[simp] theorem State.setFb_runState (v : Framebuffer) : (s.setFb v).runState = s.runState := rfl
@[simp] theorem State.setFb_fault (v : Framebuffer) : (s.setFb v).fault = s.fault := rfl
@[simp] theorem State.setFb_ir (v : Framebuffer) : (s.setFb v).ir = s.ir := rfl
@[simp] theorem State.setFb_rndQueue (v : Framebuffer) : (s.setFb v).rndQueue = s.rndQueue := rfl
@[simp] theorem State.setFb_rndDrawn (v : Framebuffer) : (s.setFb v).rndDrawn = s.rndDrawn := rfl

@[simp] theorem State.setFb_reg (v : Framebuffer) (q : RegIdx) : (s.setFb v).reg q = s.reg q := rfl

@[simp] theorem State.setFb_memRead (v : Framebuffer) (q : Nat) : (s.setFb v).memRead q = s.memRead q := rfl

/-! ### raiseFault -/

@[simp] theorem State.raiseFault_mem (c : FaultCode) : (s.raiseFault c).mem = s.mem := rfl
@[simp] theorem State.raiseFault_regs (c : FaultCode) : (s.raiseFault c).regs = s.regs := rfl
@[simp] theorem State.raiseFault_index (c : FaultCode) : (s.raiseFault c).index = s.index := rfl
@[simp] theorem State.raiseFault_pc (c : FaultCode) : (s.raiseFault c).pc = s.pc := rfl
@[simp] theorem State.raiseFault_stack (c : FaultCode) : (s.raiseFault c).stack = s.stack := rfl
@[simp] theorem State.raiseFault_sp (c : FaultCode) : (s.raiseFault c).sp = s.sp := rfl
@[simp] theorem State.raiseFault_delayTimer (c : FaultCode) : (s.raiseFault c).delayTimer = s.delayTimer := rfl
@[simp] theorem State.raiseFault_soundTimer (c : FaultCode) : (s.raiseFault c).soundTimer = s.soundTimer := rfl
@[simp] theorem State.raiseFault_fb (c : FaultCode) : (s.raiseFault c).fb = s.fb := rfl
@[simp] theorem State.raiseFault_keypad (c : FaultCode) : (s.raiseFault c).keypad = s.keypad := rfl
@[simp] theorem State.raiseFault_runState (c : FaultCode) : (s.raiseFault c).runState = s.runState := rfl
@[simp] theorem State.raiseFault_fault (c : FaultCode) : (s.raiseFault c).fault = c := rfl
@[simp] theorem State.raiseFault_ir (c : FaultCode) : (s.raiseFault c).ir = s.ir := rfl
@[simp] theorem State.raiseFault_rndQueue (c : FaultCode) : (s.raiseFault c).rndQueue = s.rndQueue := rfl
@[simp] theorem State.raiseFault_rndDrawn (c : FaultCode) : (s.raiseFault c).rndDrawn = s.rndDrawn := rfl

@[simp] theorem State.raiseFault_reg (c : FaultCode) (q : RegIdx) : (s.raiseFault c).reg q = s.reg q := rfl

@[simp] theorem State.raiseFault_memRead (c : FaultCode) (q : Nat) : (s.raiseFault c).memRead q = s.memRead q := rfl

/-! ### afterFetch -/

@[simp] theorem State.afterFetch_mem : (s.afterFetch).mem = s.mem := rfl
@[simp] theorem State.afterFetch_regs : (s.afterFetch).regs = s.regs := rfl
@[simp] theorem State.afterFetch_index : (s.afterFetch).index = s.index := rfl
@[simp] theorem State.afterFetch_pc : (s.afterFetch).pc = s.pc + 2#16 := rfl
@[simp] theorem State.afterFetch_stack : (s.afterFetch).stack = s.stack := rfl
@[simp] theorem State.afterFetch_sp : (s.afterFetch).sp = s.sp := rfl
@[simp] theorem State.afterFetch_delayTimer : (s.afterFetch).delayTimer = s.delayTimer := rfl
@[simp] theorem State.afterFetch_soundTimer : (s.afterFetch).soundTimer = s.soundTimer := rfl
@[simp] theorem State.afterFetch_fb : (s.afterFetch).fb = s.fb := rfl
@[simp] theorem State.afterFetch_keypad : (s.afterFetch).keypad = s.keypad := rfl
@[simp] theorem State.afterFetch_runState : (s.afterFetch).runState = s.runState := rfl
@[simp] theorem State.afterFetch_fault : (s.afterFetch).fault = s.fault := rfl
@[simp] theorem State.afterFetch_ir : (s.afterFetch).ir = s.fetchWord := rfl
@[simp] theorem State.afterFetch_rndQueue : (s.afterFetch).rndQueue = s.rndQueue := rfl
@[simp] theorem State.afterFetch_rndDrawn : (s.afterFetch).rndDrawn = s.rndDrawn := rfl

@[simp] theorem State.afterFetch_reg (q : RegIdx) : (s.afterFetch).reg q = s.reg q := rfl

@[simp] theorem State.afterFetch_memRead (q : Nat) : (s.afterFetch).memRead q = s.memRead q := rfl

end Sys2Proof.Machine
end

