-- ==== Sys2Proof/Laws/Memory.lean ====
section
/-! SUPPORT. Memory: a read after a write, and the canonical form, which every memory operation keeps. -/

namespace Sys2Proof.Machine

/-! ### The list of cells -/

/-- Every listed address lies above `a`. -/
def Memory.above (a : Nat) (m : Memory) : Prop := ∀ c ∈ m, a < c.1

theorem Memory.wf_cons {a : Nat} {v : Byte} {rest : Memory} :
    Memory.wf ((a, v) :: rest) = true ↔
      a < 4096 ∧ v ≠ Memory.unlisted a ∧ Memory.above a rest ∧ Memory.wf rest = true := by
  simp [Memory.wf, Memory.above, and_assoc]

theorem Memory.read_above {a : Nat} {m : Memory} (h : ∀ c ∈ m, a < c.1) :
    Memory.read m a = Memory.unlisted a := by
  induction m with
  | nil => rfl
  | cons c rest ih =>
    have hc := h c (by simp)
    simp only [Memory.read]
    rw [if_neg (by omega), ih (fun d hd => h d (by simp [hd]))]

/-- A write leaves every other cell as it was, whatever form the list has. -/
theorem Memory.read_write_other (m : Memory) {a b : Nat} (v : Byte) (h : b ≠ a) :
    Memory.read (Memory.write m a v) b = Memory.read m b := by
  induction m with
  | nil => simp only [Memory.write]; split <;> simp [Memory.read, h]
  | cons c rest ih =>
    obtain ⟨d, u⟩ := c
    simp only [Memory.write]
    split
    · split
      · rfl
      · simp [Memory.read, h]
    · split
      · subst_vars
        split <;> simp [Memory.read, h]
      · simp [Memory.read, ih]

/-- A read after a write to the same cell gives the value written. -/
theorem Memory.read_write_same {m : Memory} (hm : Memory.wf m = true) (a : Nat) (v : Byte) :
    Memory.read (Memory.write m a v) a = v := by
  induction m with
  | nil => simp only [Memory.write]; split <;> simp [Memory.read, *]
  | cons c rest ih =>
    obtain ⟨d, u⟩ := c
    obtain ⟨-, -, habove, hrest⟩ := Memory.wf_cons.mp hm
    simp only [Memory.write]
    split
    next hlt =>
      split
      next hv =>
        rw [Memory.read_above, hv]
        intro c hc
        rcases List.mem_cons.mp hc with rfl | hc
        · exact hlt
        · exact Nat.lt_trans hlt (habove c hc)
      next => simp [Memory.read]
    next hge =>
      split
      next heq =>
        subst heq
        split
        next hv => rw [Memory.read_above habove, hv]
        next => simp [Memory.read]
      next hne => simp [Memory.read, hne, ih hrest]

theorem Memory.above_write {m : Memory} {b a : Nat} {v : Byte} (hm : Memory.above b m) (h : b < a) :
    Memory.above b (Memory.write m a v) := by
  induction m with
  | nil => simp only [Memory.write]; split <;> simp_all [Memory.above]
  | cons c rest ih =>
    obtain ⟨d, u⟩ := c
    have hd : b < d := hm (d, u) (by simp)
    have hrest : Memory.above b rest := fun e he => hm e (by simp [he])
    simp only [Memory.write]
    split
    · split
      · exact hm
      · intro e he; rcases List.mem_cons.mp he with rfl | he
        · exact h
        · exact hm e he
    · split
      · split
        · exact hrest
        · intro e he; rcases List.mem_cons.mp he with rfl | he
          · exact h
          · exact hrest e he
      · intro e he; rcases List.mem_cons.mp he with rfl | he
        · exact hd
        · exact ih hrest e he

/-- A write keeps the canonical form. -/
theorem Memory.wf_write {m : Memory} (hm : Memory.wf m = true) {a : Nat} (ha : a < 4096) (v : Byte) :
    Memory.wf (Memory.write m a v) = true := by
  induction m with
  | nil => simp only [Memory.write]; split <;> simp_all [Memory.wf]
  | cons c rest ih =>
    obtain ⟨d, u⟩ := c
    obtain ⟨hd, hu, habove, hrest⟩ := Memory.wf_cons.mp hm
    simp only [Memory.write]
    split
    next hlt =>
      split
      next => exact hm
      next hv =>
        refine Memory.wf_cons.mpr ⟨ha, hv, ?_, hm⟩
        intro e he
        rcases List.mem_cons.mp he with rfl | he
        · exact hlt
        · exact Nat.lt_trans hlt (habove e he)
    next hge =>
      split
      next heq =>
        subst heq
        split
        next => exact hrest
        next hv => exact Memory.wf_cons.mpr ⟨ha, hv, habove, hrest⟩
      next hne =>
        exact Memory.wf_cons.mpr ⟨hd, hu, Memory.above_write habove (by omega), ih hrest⟩

/-! ### The machine's memory (R51, R52) -/

theorem State.memRead_memWrite_same {s : State} (hs : s.Inv) {a b : Nat} (v : Byte) (h : b % 4096 = a % 4096) :
    (s.memWrite a v).memRead b = v := by
  simp only [State.memRead, State.memWrite_mem, h]
  exact Memory.read_write_same hs _ _

theorem State.memRead_memWrite_other (s : State) {a b : Nat} (v : Byte) (h : b % 4096 ≠ a % 4096) :
    (s.memWrite a v).memRead b = s.memRead b := by
  simp only [State.memRead, State.memWrite_mem]
  exact Memory.read_write_other _ _ h

theorem State.memWrite_keeps_inv {s : State} (hs : s.Inv) (a : Nat) (v : Byte) : (s.memWrite a v).Inv :=
  Memory.wf_write hs (Nat.mod_lt _ (by decide)) v

theorem State.memRead_mod (s : State) (a : Nat) : s.memRead (a % 4096) = s.memRead a := by
  simp [State.memRead]

/-! ### A list of bytes written upward -/

theorem State.memWriteList_keeps_inv {s : State} (hs : s.Inv) (a : Nat) (vs : List Byte) :
    (s.memWriteList a vs).Inv := by
  induction vs generalizing s a with
  | nil => exact hs
  | cons v vs ih => exact ih (State.memWrite_keeps_inv hs a v) (a + 1)

/-- The cells the list does not cover keep their bytes. -/
theorem State.memRead_memWriteList_other (s : State) (a : Nat) (vs : List Byte) (b : Nat)
    (h : ∀ k < vs.length, b % 4096 ≠ (a + k) % 4096) : (s.memWriteList a vs).memRead b = s.memRead b := by
  induction vs generalizing s a with
  | nil => rfl
  | cons v vs ih =>
    have h0 := h 0 (by simp)
    rw [State.memWriteList, ih]
    · exact State.memRead_memWrite_other s v (by simpa using h0)
    · intro k hk
      have := h (k + 1) (by simpa using hk)
      rwa [Nat.add_assoc, Nat.add_comm 1 k]

/-- Cell `a + k` holds the list's k-th byte, for a list that does not lap the whole memory. -/
theorem State.memRead_memWriteList_covered {s : State} (hs : s.Inv) (a : Nat) (vs : List Byte)
    (hlen : vs.length ≤ 4096) (k : Nat) (hk : k < vs.length) :
    (s.memWriteList a vs).memRead (a + k) = vs[k] := by
  induction vs generalizing s a k with
  | nil => simp at hk
  | cons v vs ih =>
    simp only [List.length_cons] at hlen hk
    rw [State.memWriteList]
    cases k with
    | zero =>
      rw [State.memRead_memWriteList_other]
      · simpa using State.memRead_memWrite_same hs v rfl
      · intro j hj
        omega
    | succ k =>
      have := ih (State.memWrite_keeps_inv hs a v) (a + 1) (by omega) k (by omega)
      rw [Nat.add_assoc, Nat.add_comm 1 k] at this
      simpa using this

/-- Writing a list of bytes changes memory alone. -/
theorem State.memWriteList_eq (s : State) (a : Nat) (vs : List Byte) :
    s.memWriteList a vs = { s with mem := (s.memWriteList a vs).mem } := by
  induction vs generalizing s a with
  | nil => rfl
  | cons v vs ih =>
    rw [State.memWriteList, ih]
    rfl

@[simp] theorem State.memWriteList_reg (s : State) (a : Nat) (vs : List Byte) (r : RegIdx) :
    (s.memWriteList a vs).reg r = s.reg r := by rw [State.memWriteList_eq]; rfl

@[simp] theorem State.memWriteList_regs (s : State) (a : Nat) (vs : List Byte) :
    (s.memWriteList a vs).regs = s.regs := by rw [State.memWriteList_eq]

@[simp] theorem State.memWriteList_index (s : State) (a : Nat) (vs : List Byte) :
    (s.memWriteList a vs).index = s.index := by rw [State.memWriteList_eq]

@[simp] theorem State.memWriteList_pc (s : State) (a : Nat) (vs : List Byte) :
    (s.memWriteList a vs).pc = s.pc := by rw [State.memWriteList_eq]

@[simp] theorem State.memWriteList_stack (s : State) (a : Nat) (vs : List Byte) :
    (s.memWriteList a vs).stack = s.stack := by rw [State.memWriteList_eq]

@[simp] theorem State.memWriteList_sp (s : State) (a : Nat) (vs : List Byte) :
    (s.memWriteList a vs).sp = s.sp := by rw [State.memWriteList_eq]

@[simp] theorem State.memWriteList_delayTimer (s : State) (a : Nat) (vs : List Byte) :
    (s.memWriteList a vs).delayTimer = s.delayTimer := by rw [State.memWriteList_eq]

@[simp] theorem State.memWriteList_soundTimer (s : State) (a : Nat) (vs : List Byte) :
    (s.memWriteList a vs).soundTimer = s.soundTimer := by rw [State.memWriteList_eq]

@[simp] theorem State.memWriteList_fb (s : State) (a : Nat) (vs : List Byte) :
    (s.memWriteList a vs).fb = s.fb := by rw [State.memWriteList_eq]

@[simp] theorem State.memWriteList_keypad (s : State) (a : Nat) (vs : List Byte) :
    (s.memWriteList a vs).keypad = s.keypad := by rw [State.memWriteList_eq]

@[simp] theorem State.memWriteList_runState (s : State) (a : Nat) (vs : List Byte) :
    (s.memWriteList a vs).runState = s.runState := by rw [State.memWriteList_eq]

@[simp] theorem State.memWriteList_fault (s : State) (a : Nat) (vs : List Byte) :
    (s.memWriteList a vs).fault = s.fault := by rw [State.memWriteList_eq]

@[simp] theorem State.memWriteList_ir (s : State) (a : Nat) (vs : List Byte) :
    (s.memWriteList a vs).ir = s.ir := by rw [State.memWriteList_eq]

@[simp] theorem State.memWriteList_rndQueue (s : State) (a : Nat) (vs : List Byte) :
    (s.memWriteList a vs).rndQueue = s.rndQueue := by rw [State.memWriteList_eq]

@[simp] theorem State.memWriteList_rndDrawn (s : State) (a : Nat) (vs : List Byte) :
    (s.memWriteList a vs).rndDrawn = s.rndDrawn := by rw [State.memWriteList_eq]

end Sys2Proof.Machine
end

