-- ==== Sys2Proof/Laws/Ops.lean ====
section
/-! SUPPORT. What each named operation can do, said once: registers, the call stack, skips, the random source, the
register lists, and the rollback of a faulting step. -/

namespace Sys2Proof.Machine

/-! ### Registers (R20) -/

theorem State.reg_setReg (s : State) (r q : RegIdx) (v : Byte) :
    (s.setReg r v).reg q = if q = r then v else s.reg q := by
  simp only [State.reg, State.setReg, Vector.getElem_set]
  by_cases h : q = r
  · simp [h]
  · have : ¬ r.toNat = q.toNat := fun e => h (BitVec.eq_of_toNat_eq e.symm)
    simp [h, this]

@[simp] theorem State.reg_setReg_same (s : State) (r : RegIdx) (v : Byte) : (s.setReg r v).reg r = v := by
  simp [State.reg_setReg]

theorem State.reg_setReg_other (s : State) {r q : RegIdx} (v : Byte) (h : q ≠ r) :
    (s.setReg r v).reg q = s.reg q := by simp [State.reg_setReg, h]

/-- The result goes to reg[X] and the flag to reg[F], and where X is F the flag wins (R21, R140). -/
theorem State.reg_writeResultAndFlag (s : State) (x q : RegIdx) (v f : Byte) :
    (s.writeResultAndFlag x v f).reg q = if q = flagReg then f else if q = x then v else s.reg q := by
  simp [State.writeResultAndFlag, State.reg_setReg]

/-! ### Skips (R118) -/

theorem State.skipIf_eq (s : State) (b : Bool) : s.skipIf b = s.setPc (if b then s.pc + 2#16 else s.pc) := by
  cases b <;> rfl

/-! ### The call stack (R29, R30) -/

theorem State.push_full {s : State} (h : s.sp.val = 12) (v : Word) : s.push v = .error .stackOverflow := by
  simp [State.push, h]

/-- What a push that answers a state has done. -/
theorem State.push_ok {s t : State} {v : Word} (h : s.push v = .ok t) :
    s.sp.val < 12 ∧ t.sp.val = s.sp.val + 1 ∧ t = { s with stack := t.stack, sp := t.sp } ∧
      ∀ k (hk : k < 12), t.stack[k] = if k = s.sp.val then v else s.stack[k] := by
  unfold State.push at h
  split at h
  · cases h
  next hsp =>
    cases h
    have := s.sp.isLt
    refine ⟨by omega, rfl, rfl, fun k hk => ?_⟩
    simp only [Vector.getElem_set, eq_comm]

theorem State.push_room {s : State} (h : s.sp.val < 12) (v : Word) : ∃ t, s.push v = .ok t := by
  unfold State.push
  rw [dif_neg (by omega)]
  exact ⟨_, rfl⟩

theorem State.pop_empty {s : State} (h : s.sp.val = 0) : s.pop = .error .stackUnderflow := by
  simp [State.pop, h]

/-- What a pop that answers a value has done: the stack's entries stay, the top one's value is answered. -/
theorem State.pop_ok {s t : State} {v : Word} (h : s.pop = .ok (v, t)) :
    ∃ h0 : s.sp.val - 1 < 12, 0 < s.sp.val ∧ v = s.stack[s.sp.val - 1] ∧ t.sp.val = s.sp.val - 1 ∧
      t = { s with sp := t.sp } := by
  unfold State.pop at h
  split at h
  · cases h
  next hsp =>
    cases h
    have := s.sp.isLt
    exact ⟨by omega, by omega, rfl, rfl, rfl⟩

theorem State.pop_some {s : State} (h : 0 < s.sp.val) : ∃ v t, s.pop = .ok (v, t) := by
  unfold State.pop
  rw [dif_neg (by omega)]
  exact ⟨_, _, rfl⟩

/-! ### The random source (R12, R247) -/

theorem State.randomByte_queued {s : State} {b : Byte} {rest : List Byte} (h : s.rndQueue = b :: rest) :
    s.randomByte = b ∧ s.consumeRandom = { s with rndQueue := rest } := by
  simp [State.randomByte, State.consumeRandom, h]

theorem State.randomByte_free {s : State} (h : s.rndQueue = []) :
    s.randomByte = Config.randomByte s.rndDrawn ∧ s.consumeRandom = { s with rndDrawn := s.rndDrawn + 1 } := by
  simp [State.randomByte, State.consumeRandom, h]

/-- Consuming a draw changes the random source alone. -/
theorem State.consumeRandom_eq (s : State) :
    s.consumeRandom = { s with rndQueue := s.consumeRandom.rndQueue, rndDrawn := s.consumeRandom.rndDrawn } := by
  unfold State.consumeRandom
  split <;> rfl

/-! ### Register lists (R175, R176) -/

@[simp] theorem State.length_regList (s : State) (n : Nat) : (s.regList n).length = n := by simp [State.regList]

theorem State.getElem_regList (s : State) {n k : Nat} (h : k < (s.regList n).length) :
    (s.regList n)[k] = s.reg (BitVec.ofNat 4 k) := by simp [State.regList]

/-- Loading registers changes registers alone. -/
theorem State.loadRegList_eq (s : State) (n : Nat) : s.loadRegList n = { s with regs := (s.loadRegList n).regs } := by
  induction n with
  | zero => rfl
  | succ n ih =>
    rw [State.loadRegList, ih]
    rfl

/-- Register q below n holds the byte at I + q, the others what they held. -/
theorem State.reg_loadRegList (s : State) (n : Nat) (hn : n ≤ 16) (q : RegIdx) :
    (s.loadRegList n).reg q = if q.toNat < n then s.memRead (s.dataAddr q.toNat) else s.reg q := by
  induction n with
  | zero => simp [State.loadRegList]
  | succ n ih =>
    have hmem : ∀ a, (s.loadRegList n).memRead a = s.memRead a := fun a => by
      rw [State.loadRegList_eq]; rfl
    have haddr : (s.loadRegList n).dataAddr n = s.dataAddr n := by
      rw [State.loadRegList_eq]; rfl
    have hq : q = BitVec.ofNat 4 n ↔ q.toNat = n := by
      rw [BitVec.toNat_eq]
      simp [Nat.mod_eq_of_lt (show n < 16 by omega)]
    simp only [State.loadRegList, State.reg_setReg, hmem, haddr, hq, ih (by omega)]
    by_cases h : q.toNat = n
    · simp [h]
    · have : q.toNat < n + 1 ↔ q.toNat < n := by omega
      simp [h, this]

/-! ### Waiting for a key (R212) -/

theorem State.lowestKey_none {s : State} : s.lowestKey = none ↔ ∀ k < 16, s.keyDown k = false := by
  simp [State.lowestKey]

/-- The key found is down and no lower one is. -/
theorem State.lowestKey_some {s : State} {k : Nat} :
    s.lowestKey = some k ↔ k < 16 ∧ s.keyDown k = true ∧ ∀ j < k, s.keyDown j = false := by
  rw [State.lowestKey, List.find?_range_eq_some]
  simp
  tauto

/-! ### Faults (R232) -/

theorem State.commit_of_none (s : State) {t : State} (h : t.fault = .none) : s.commit t = t := by
  simp [State.commit, h]

theorem State.commit_of_fault (s : State) {t : State} (h : t.fault ≠ .none) : s.commit t = s.raiseFault t.fault := by
  simp [State.commit, h]

theorem State.active_iff {s : State} : s.active = true ↔ s.runState = .running ∧ s.fault = .none := by
  simp [State.active]

/-! ### Operands and flags as numbers -/

@[simp] theorem toNat_addrOperand (nnn : Addr) : (addrOperand nnn).toNat = nnn.toNat := by
  have := nnn.isLt
  simp [addrOperand]
  omega

theorem toNat_flagByte (b : Bool) : (flagByte b).toNat = if b then 1 else 0 := by cases b <;> rfl

theorem toNat_decrement (v : Byte) : (decrement v).toNat = v.toNat - 1 := by
  have := v.isLt
  unfold decrement
  split
  · simp; omega
  · omega

end Sys2Proof.Machine
end

