-- ==== Sys2Proof/Laws/Display.lean ====
section
/-! SUPPORT. The drawing/collision unit (43_display.md R191-R195): what one cell write, one row and a whole sprite do to
every cell of the grid and to the collision bit. -/

namespace Sys2Proof.Machine

/-- A cell write changes its own cell only. -/
theorem Framebuffer.cell_setCell (fb : Framebuffer) {x y : Nat} (hx : x < 64) (hy : y < 32) (v : Bool) (x' y' : Nat) :
    Framebuffer.cell (Framebuffer.setCell fb x y v) x' y' =
      if x' = x ∧ y' = y then v else Framebuffer.cell fb x' y' := by
  unfold Framebuffer.cell Framebuffer.setCell
  rw [dif_pos hy]
  by_cases hy' : y' < 32
  · rw [dif_pos hy', dif_pos hy', Vector.getElem_set]
    by_cases e : y = y'
    · subst e
      simp only [and_true, ite_true]
      by_cases hxx : x' = x
      · subst hxx
        cases v <;> simp [hx]
      · cases v <;> simp [hxx, BitVec.getLsbD_one]
        · intro h
          have := BitVec.lt_of_getLsbD h
          omega
        · omega
    · have e' : ¬ y' = y := fun h => e h.symm
      simp [e, e']
  · rw [dif_neg hy', dif_neg hy']
    have : ¬ y' = y := by omega
    simp [this]

/-- No cell lies right of the grid. -/
theorem Framebuffer.cell_right (fb : Framebuffer) {x : Nat} (hx : 64 ≤ x) (y : Nat) :
    Framebuffer.cell fb x y = false := by
  unfold Framebuffer.cell
  split
  · exact BitVec.getLsbD_of_ge _ _ hx
  · rfl

@[simp] theorem Framebuffer.cell_clear (x y : Nat) : Framebuffer.cell Framebuffer.clear x y = false := by
  unfold Framebuffer.cell Framebuffer.clear
  split <;> simp

/-- Bits 0 to n - 1 of a row: the set sprite bit over the cell (x, y), clipped at the right edge. -/
def rowBit (sprite : Byte) (x0 y n x' y' : Nat) : Bool :=
  decide (y' = y ∧ x0 ≤ x' ∧ x' < x0 + n ∧ x' < 64) && sprite.getLsbD (7 - (x' - x0))

theorem drawBits_cell (sprite : Byte) (x0 : Nat) {y : Nat} (hy : y < 32) (acc : Framebuffer × Bool) (n x' y' : Nat) :
    Framebuffer.cell (drawBits sprite x0 y acc n).1 x' y' =
      (Framebuffer.cell acc.1 x' y' ^^ rowBit sprite x0 y n x' y') := by
  induction n with
  | zero =>
    have : ¬ (y' = y ∧ x0 ≤ x' ∧ x' < x0 + 0 ∧ x' < 64) := by omega
    rw [drawBits, rowBit, decide_eq_false this, Bool.false_and, Bool.xor_false]
  | succ n ih =>
    simp only [drawBits, drawBit]
    split
    next hge =>
      rw [ih, rowBit, rowBit]
      have : (y' = y ∧ x0 ≤ x' ∧ x' < x0 + n ∧ x' < 64) ↔ (y' = y ∧ x0 ≤ x' ∧ x' < x0 + (n + 1) ∧ x' < 64) := by
        omega
      simp only [this]
    next hlt =>
      rw [Framebuffer.cell_setCell _ (by omega) hy]
      split
      next he =>
        obtain ⟨rfl, rfl⟩ := he
        rw [ih]
        have h1 : ¬ x0 + n < x0 + n := by omega
        have h2 : x0 + n < 64 := by omega
        simp [rowBit, h2]
      next hne =>
        rw [ih, rowBit, rowBit]
        have : (y' = y ∧ x0 ≤ x' ∧ x' < x0 + n ∧ x' < 64) ↔ (y' = y ∧ x0 ≤ x' ∧ x' < x0 + (n + 1) ∧ x' < 64) := by
          omega
        simp only [this]

theorem drawBits_collision (sprite : Byte) (x0 : Nat) {y : Nat} (hy : y < 32) (acc : Framebuffer × Bool) (n : Nat) :
    (drawBits sprite x0 y acc n).2 = true ↔
      acc.2 = true ∨ ∃ x', Framebuffer.cell acc.1 x' y = true ∧ rowBit sprite x0 y n x' y = true := by
  induction n with
  | zero =>
    simp [drawBits, rowBit]
    omega
  | succ n ih =>
    have hsplit : ∀ x', rowBit sprite x0 y (n + 1) x' y = true ↔
        rowBit sprite x0 y n x' y = true ∨ (x' = x0 + n ∧ x0 + n < 64 ∧ sprite.getLsbD (7 - n) = true) := by
      intro x'
      simp only [rowBit, Bool.and_eq_true, decide_eq_true_eq, true_and]
      constructor
      · rintro ⟨h, hb⟩
        by_cases e : x' = x0 + n
        · subst e
          exact .inr ⟨rfl, by omega, by simpa using hb⟩
        · exact .inl ⟨by omega, hb⟩
      · rintro (⟨h, hb⟩ | ⟨rfl, h, hb⟩)
        · exact ⟨by omega, hb⟩
        · exact ⟨by omega, by simpa using hb⟩
    simp only [drawBits, drawBit]
    split
    next hge =>
      rw [ih]
      have : ¬ x0 + n < 64 := by omega
      simp [hsplit, this]
    next hlt =>
      have hcell : Framebuffer.cell (drawBits sprite x0 y acc n).1 (x0 + n) y = Framebuffer.cell acc.1 (x0 + n) y := by
        rw [drawBits_cell _ _ hy]
        simp [rowBit]
      simp only [Bool.or_eq_true, Bool.and_eq_true, ih, hcell, hsplit]
      constructor
      · rintro ((h | ⟨x', h1, h2⟩) | ⟨h1, h2⟩)
        · exact .inl h
        · exact .inr ⟨x', h1, .inl h2⟩
        · exact .inr ⟨x0 + n, h2, .inr ⟨rfl, by omega, h1⟩⟩
      · rintro (h | ⟨x', h1, h2 | ⟨rfl, h3, h4⟩⟩)
        · exact .inl (.inl h)
        · exact .inl (.inr ⟨x', h1, h2⟩)
        · exact .inr ⟨h4, h1⟩

/-- The set sprite bits over the cell (x, y) of the grid, for a sprite of n rows at (x0, y0), clipped at both edges
(R194). -/
def spriteBit (row : Nat → Byte) (x0 y0 n x y : Nat) : Bool :=
  decide (y0 ≤ y ∧ y < y0 + n ∧ y < 32 ∧ x0 ≤ x ∧ x < x0 + 8 ∧ x < 64) && (row (y - y0)).getLsbD (7 - (x - x0))

/-- R195: each cell's new value is `old ^ bit`. -/
theorem drawRows_cell (row : Nat → Byte) (x0 y0 : Nat) (acc : Framebuffer × Bool) (n x y : Nat) :
    Framebuffer.cell (drawRows row x0 y0 acc n).1 x y =
      (Framebuffer.cell acc.1 x y ^^ spriteBit row x0 y0 n x y) := by
  induction n with
  | zero =>
    have : ¬ (y0 ≤ y ∧ y < y0 + 0 ∧ y < 32 ∧ x0 ≤ x ∧ x < x0 + 8 ∧ x < 64) := by omega
    rw [drawRows, spriteBit, decide_eq_false this, Bool.false_and, Bool.xor_false]
  | succ n ih =>
    have hrow : ∀ (hy : y = y0 + n), 32 > y0 + n →
        spriteBit row x0 y0 (n + 1) x y = rowBit (row n) x0 (y0 + n) 8 x y ∧ spriteBit row x0 y0 n x y = false := by
      rintro rfl h
      have h1 : (y0 ≤ y0 + n ∧ y0 + n < y0 + (n + 1) ∧ y0 + n < 32 ∧ x0 ≤ x ∧ x < x0 + 8 ∧ x < 64) ↔
          (y0 + n = y0 + n ∧ x0 ≤ x ∧ x < x0 + 8 ∧ x < 64) := by omega
      constructor
      · simp only [spriteBit, rowBit, h1, Nat.add_sub_cancel_left]
      · simp [spriteBit]
    simp only [drawRows]
    split
    next hge =>
      rw [ih, spriteBit, spriteBit]
      have : (y0 ≤ y ∧ y < y0 + n ∧ y < 32 ∧ x0 ≤ x ∧ x < x0 + 8 ∧ x < 64) ↔
          (y0 ≤ y ∧ y < y0 + (n + 1) ∧ y < 32 ∧ x0 ≤ x ∧ x < x0 + 8 ∧ x < 64) := by omega
      simp only [this]
    next hlt =>
      rw [drawBits_cell _ _ (by omega), ih]
      by_cases hy : y = y0 + n
      · obtain ⟨h1, h2⟩ := hrow hy (by omega)
        rw [h1, h2]
        simp
      · have h1 : rowBit (row n) x0 (y0 + n) 8 x y = false := by simp [rowBit, hy]
        have h2 : (y0 ≤ y ∧ y < y0 + n ∧ y < 32 ∧ x0 ≤ x ∧ x < x0 + 8 ∧ x < 64) ↔
            (y0 ≤ y ∧ y < y0 + (n + 1) ∧ y < 32 ∧ x0 ≤ x ∧ x < x0 + 8 ∧ x < 64) := by omega
        rw [h1, spriteBit, spriteBit]
        simp only [h2, Bool.xor_false]

/-- R195: the collision bit is set if and only if some drawn cell was on under a set sprite bit. -/
theorem drawRows_collision (row : Nat → Byte) (x0 y0 : Nat) (acc : Framebuffer × Bool) (n : Nat) :
    (drawRows row x0 y0 acc n).2 = true ↔
      acc.2 = true ∨ ∃ x y, Framebuffer.cell acc.1 x y = true ∧ spriteBit row x0 y0 n x y = true := by
  induction n with
  | zero =>
    simp only [drawRows, spriteBit, Bool.and_eq_true, decide_eq_true_eq]
    constructor
    · exact .inl
    · rintro (h | ⟨x, y, -, h, -⟩)
      · exact h
      · omega
  | succ n ih =>
    simp only [drawRows]
    split
    next hge =>
      rw [ih]
      have : ∀ x y, spriteBit row x0 y0 n x y = spriteBit row x0 y0 (n + 1) x y := by
        intro x y
        rw [spriteBit, spriteBit]
        have : (y0 ≤ y ∧ y < y0 + n ∧ y < 32 ∧ x0 ≤ x ∧ x < x0 + 8 ∧ x < 64) ↔
            (y0 ≤ y ∧ y < y0 + (n + 1) ∧ y < 32 ∧ x0 ≤ x ∧ x < x0 + 8 ∧ x < 64) := by omega
        simp only [this]
      simp only [this]
    next hlt =>
      have hold : ∀ x, Framebuffer.cell (drawRows row x0 y0 acc n).1 x (y0 + n) = Framebuffer.cell acc.1 x (y0 + n) := by
        intro x
        rw [drawRows_cell]
        simp [spriteBit]
      have hrow : ∀ x, rowBit (row n) x0 (y0 + n) 8 x (y0 + n) = spriteBit row x0 y0 (n + 1) x (y0 + n) := by
        intro x
        have h1 : (y0 ≤ y0 + n ∧ y0 + n < y0 + (n + 1) ∧ y0 + n < 32 ∧ x0 ≤ x ∧ x < x0 + 8 ∧ x < 64) ↔
            (y0 + n = y0 + n ∧ x0 ≤ x ∧ x < x0 + 8 ∧ x < 64) := by omega
        simp only [spriteBit, rowBit, h1, Nat.add_sub_cancel_left]
      have hup : ∀ x y, spriteBit row x0 y0 (n + 1) x y = true ↔
          spriteBit row x0 y0 n x y = true ∨ (y = y0 + n ∧ spriteBit row x0 y0 (n + 1) x y = true) := by
        intro x y
        by_cases hy : y = y0 + n
        · subst hy; simp [spriteBit]
        · have : (y0 ≤ y ∧ y < y0 + n ∧ y < 32 ∧ x0 ≤ x ∧ x < x0 + 8 ∧ x < 64) ↔
              (y0 ≤ y ∧ y < y0 + (n + 1) ∧ y < 32 ∧ x0 ≤ x ∧ x < x0 + 8 ∧ x < 64) := by omega
          simp only [spriteBit, this, hy, false_and, or_false]
      rw [drawBits_collision _ _ (by omega), ih]
      simp only [hold, hrow]
      constructor
      · rintro ((h | ⟨x, y, h1, h2⟩) | ⟨x, h1, h2⟩)
        · exact .inl h
        · exact .inr ⟨x, y, h1, (hup x y).mpr (.inl h2)⟩
        · exact .inr ⟨x, _, h1, h2⟩
      · rintro (h | ⟨x, y, h1, h2⟩)
        · exact .inl (.inl h)
        · rcases (hup x y).mp h2 with h3 | ⟨rfl, h3⟩
          · exact .inl (.inr ⟨x, y, h1, h3⟩)
          · exact .inr ⟨x, h1, h3⟩

end Sys2Proof.Machine
end

