-- ==== Sys2Proof/Laws/Frames.lean ====
section
/-! SUPPORT. The frame of every shared operation: what it leaves unchanged, said once. -/

namespace Sys2Proof.Machine

variable {regs regs' : RegIdx → Prop} {cells cells' : Nat → Prop} {parts parts' : List Part} {s t u : State}

theorem Frame.refl (regs : RegIdx → Prop) (cells : Nat → Prop) (parts : List Part) (s : State) :
    Frame regs cells parts s s := by
  constructor <;> intros <;> first | rfl | exact ⟨rfl, rfl⟩

/-- A frame may be weakened. -/
theorem Frame.mono (h : Frame regs cells parts s t) (hr : ∀ r, regs r → regs' r) (hc : ∀ a, cells a → cells' a)
    (hp : ∀ p ∈ parts, p ∈ parts') : Frame regs' cells' parts' s t where
  regs_kept r hn := h.regs_kept r (fun hr' => hn (hr r hr'))
  cells_kept a hn := h.cells_kept a (fun hc' => hn (hc _ hc'))
  index_kept hn := h.index_kept (fun hp' => hn (hp _ hp'))
  stack_kept hn := h.stack_kept (fun hp' => hn (hp _ hp'))
  delay_kept hn := h.delay_kept (fun hp' => hn (hp _ hp'))
  sound_kept hn := h.sound_kept (fun hp' => hn (hp _ hp'))
  fb_kept hn := h.fb_kept (fun hp' => hn (hp _ hp'))
  source_kept hn := h.source_kept (fun hp' => hn (hp _ hp'))
  fault_kept hn := h.fault_kept (fun hp' => hn (hp _ hp'))
  keypad_kept := h.keypad_kept
  runState_kept := h.runState_kept
  ir_kept hn := h.ir_kept (fun hp' => hn (hp _ hp'))

/-- Two operations, one after the other, within one frame. -/
theorem Frame.trans (h : Frame regs cells parts s t) (h' : Frame regs cells parts t u) :
    Frame regs cells parts s u where
  regs_kept r hn := (h'.regs_kept r hn).trans (h.regs_kept r hn)
  cells_kept a hn := (h'.cells_kept a hn).trans (h.cells_kept a hn)
  index_kept hn := (h'.index_kept hn).trans (h.index_kept hn)
  stack_kept hn := ⟨(h'.stack_kept hn).1.trans (h.stack_kept hn).1, (h'.stack_kept hn).2.trans (h.stack_kept hn).2⟩
  delay_kept hn := (h'.delay_kept hn).trans (h.delay_kept hn)
  sound_kept hn := (h'.sound_kept hn).trans (h.sound_kept hn)
  fb_kept hn := (h'.fb_kept hn).trans (h.fb_kept hn)
  source_kept hn :=
    ⟨(h'.source_kept hn).1.trans (h.source_kept hn).1, (h'.source_kept hn).2.trans (h.source_kept hn).2⟩
  fault_kept hn := (h'.fault_kept hn).trans (h.fault_kept hn)
  keypad_kept := h'.keypad_kept.trans h.keypad_kept
  runState_kept := h'.runState_kept.trans h.runState_kept
  ir_kept hn := (h'.ir_kept hn).trans (h.ir_kept hn)

/-! ### Registers -/

theorem Frame.setReg (s : State) (x : RegIdx) (v : Byte) : Frame (· = x) noCells [] s (s.setReg x v) := by
  constructor <;> intros <;> first | rfl | exact ⟨rfl, rfl⟩ | (apply State.reg_setReg_other; assumption)

theorem Frame.writeResultAndFlag (s : State) (x : RegIdx) (v f : Byte) :
    Frame (fun r => r = x ∨ r = flagReg) noCells [] s (s.writeResultAndFlag x v f) :=
  Frame.trans ((Frame.setReg s x v).mono (fun _ => .inl) (fun _ => id) (fun _ => id))
    ((Frame.setReg _ flagReg f).mono (fun _ => .inr) (fun _ => id) (fun _ => id))

theorem Frame.loadRegList (s : State) {n : Nat} (hn : n ≤ 16) :
    Frame (fun r => r.toNat < n) noCells [] s (s.loadRegList n) := by
  rw [State.loadRegList_eq]
  constructor <;> intros <;> first | rfl | exact ⟨rfl, rfl⟩ | skip
  next r hr =>
    have := State.reg_loadRegList s n hn r
    rw [if_neg hr] at this
    exact this

/-! ### Memory -/

theorem Frame.memWriteList (s : State) (a : Nat) (vs : List Byte) :
    Frame noRegs (cellsFrom a vs.length) [] s (s.memWriteList a vs) := by
  constructor <;> intros <;> first | simp | skip
  next b hb =>
    exact State.memRead_memWriteList_other s a vs b (fun k hk e => hb ⟨k, hk, e⟩)

theorem Frame.memWrite (s : State) (a : Nat) (v : Byte) :
    Frame noRegs (fun c => c = a % 4096) [] s (s.memWrite a v) := by
  constructor <;> intros <;> first | rfl | exact ⟨rfl, rfl⟩ | skip
  next b hb => exact State.memRead_memWrite_other s v hb

/-! ### The other state -/

theorem Frame.setPc (s : State) (v : Word) : Frame noRegs noCells [] s (s.setPc v) := by
  constructor <;> intros <;> first | rfl | exact ⟨rfl, rfl⟩

theorem Frame.skipIf (s : State) (b : Bool) : Frame noRegs noCells [] s (s.skipIf b) := by
  rw [State.skipIf_eq]; exact Frame.setPc s _

theorem Frame.setIndex (s : State) (v : Word) : Frame noRegs noCells [.index] s (s.setIndex v) := by
  constructor <;> intros <;> first | rfl | exact ⟨rfl, rfl⟩ | simp_all

theorem Frame.setDelay (s : State) (v : Byte) : Frame noRegs noCells [.delay] s (s.setDelay v) := by
  constructor <;> intros <;> first | rfl | exact ⟨rfl, rfl⟩ | simp_all

theorem Frame.setSound (s : State) (v : Byte) : Frame noRegs noCells [.sound] s (s.setSound v) := by
  constructor <;> intros <;> first | rfl | exact ⟨rfl, rfl⟩ | simp_all

theorem Frame.setFb (s : State) (v : Framebuffer) : Frame noRegs noCells [.fb] s (s.setFb v) := by
  constructor <;> intros <;> first | rfl | exact ⟨rfl, rfl⟩ | simp_all

theorem Frame.raiseFault (s : State) (c : FaultCode) : Frame noRegs noCells [.fault] s (s.raiseFault c) := by
  constructor <;> intros <;> first | rfl | exact ⟨rfl, rfl⟩ | simp_all

theorem Frame.afterFetch (s : State) : Frame noRegs noCells [.ir] s s.afterFetch := by
  constructor <;> intros <;> first | rfl | exact ⟨rfl, rfl⟩ | simp_all

theorem Frame.consumeRandom (s : State) : Frame noRegs noCells [.source] s s.consumeRandom := by
  rw [State.consumeRandom_eq]
  constructor <;> intros <;> first | rfl | exact ⟨rfl, rfl⟩ | simp_all

theorem Frame.push {v : Word} (h : s.push v = .ok t) : Frame noRegs noCells [.stack] s t := by
  obtain ⟨-, -, ht, -⟩ := State.push_ok h
  clear h
  generalize t.stack = a, t.sp = b at ht
  subst ht
  constructor <;> intros <;> first | rfl | exact ⟨rfl, rfl⟩ | simp_all

theorem Frame.pop {v : Word} (h : s.pop = .ok (v, t)) : Frame noRegs noCells [.stack] s t := by
  obtain ⟨-, -, -, -, ht⟩ := State.pop_ok h
  clear h
  generalize t.sp = b at ht
  subst ht
  constructor <;> intros <;> first | rfl | exact ⟨rfl, rfl⟩ | simp_all

end Sys2Proof.Machine
end

