-- ==== Sys2Proof/Laws/PerInstr.lean ====
section
/-! SUPPORT. One law for every instruction as syntax: the word of an instruction is selected by a row of the opcode map
(30_encoding.md R86), and that row reads the instruction back from it, every operand at every value. One lemma per
constructor. -/

namespace Sys2Proof.Laws.RowOfEncoding

/-- The word of `i` is selected by a row of R86 whose operands are those of `i`. -/
def Statement (i : Instr) : Prop := ∃ r ∈ opcodeRows, r.selects (encode i) = true ∧ r.make (encode i) = i

theorem clearScreen : Statement .clearScreen :=
  ⟨⟨"clear-screen", 0x00E0#16, 0xFFFF#16, fun _ => .clearScreen⟩, by
    simp [opcodeRows, opcodeRowsLow, opcodeRowsAlu, opcodeRowsHigh, opcodeRowsMisc],
    by decide,
    rfl⟩

theorem ret : Statement .ret :=
  ⟨⟨"return", 0x00EE#16, 0xFFFF#16, fun _ => .ret⟩, by
    simp [opcodeRows, opcodeRowsLow, opcodeRowsAlu, opcodeRowsHigh, opcodeRowsMisc],
    by decide,
    rfl⟩

theorem jump (nnn : Addr) : Statement (.jump nnn) :=
  ⟨⟨"jump", 0x1000#16, 0xF000#16, fun w => .jump (fieldNNN w)⟩, by
    simp [opcodeRows, opcodeRowsLow, opcodeRowsAlu, opcodeRowsHigh, opcodeRowsMisc],
    by simp [OpcodeRow.selects, encode, or_and_mask, atNNN_outside nnn],
    by simp [encode, show fieldNNN 0x1000#16 = 0#12 from rfl]⟩

theorem call (nnn : Addr) : Statement (.call nnn) :=
  ⟨⟨"call", 0x2000#16, 0xF000#16, fun w => .call (fieldNNN w)⟩, by
    simp [opcodeRows, opcodeRowsLow, opcodeRowsAlu, opcodeRowsHigh, opcodeRowsMisc],
    by simp [OpcodeRow.selects, encode, or_and_mask, atNNN_outside nnn],
    by simp [encode, show fieldNNN 0x2000#16 = 0#12 from rfl]⟩

theorem skipEqImm (x : RegIdx) (nn : Byte) : Statement (.skipEqImm x nn) :=
  ⟨⟨"skip-eq-imm", 0x3000#16, 0xF000#16, fun w => .skipEqImm (fieldX w) (fieldNN w)⟩, by
    simp [opcodeRows, opcodeRowsLow, opcodeRowsAlu, opcodeRowsHigh, opcodeRowsMisc],
    by simp [OpcodeRow.selects, encode, or_and_mask, atX_outside x, atNN_outside nn],
    by simp [encode, show fieldX 0x3000#16 = 0#4 from rfl, show fieldNN 0x3000#16 = 0#8 from rfl]⟩

theorem skipNeImm (x : RegIdx) (nn : Byte) : Statement (.skipNeImm x nn) :=
  ⟨⟨"skip-ne-imm", 0x4000#16, 0xF000#16, fun w => .skipNeImm (fieldX w) (fieldNN w)⟩, by
    simp [opcodeRows, opcodeRowsLow, opcodeRowsAlu, opcodeRowsHigh, opcodeRowsMisc],
    by simp [OpcodeRow.selects, encode, or_and_mask, atX_outside x, atNN_outside nn],
    by simp [encode, show fieldX 0x4000#16 = 0#4 from rfl, show fieldNN 0x4000#16 = 0#8 from rfl]⟩

theorem skipEqReg (x y : RegIdx) (n : Nibble) : Statement (.skipEqReg x y n) :=
  ⟨⟨"skip-eq-reg", 0x5000#16, 0xF000#16, fun w => .skipEqReg (fieldX w) (fieldY w) (fieldN w)⟩, by
    simp [opcodeRows, opcodeRowsLow, opcodeRowsAlu, opcodeRowsHigh, opcodeRowsMisc],
    by simp [OpcodeRow.selects, encode, or_and_mask, atX_outside x, atY_outside y, atN_outside n],
    by simp [encode, show fieldX 0x5000#16 = 0#4 from rfl, show fieldY 0x5000#16 = 0#4 from rfl, show fieldN 0x5000#16 = 0#4 from rfl]⟩

theorem loadImm (x : RegIdx) (nn : Byte) : Statement (.loadImm x nn) :=
  ⟨⟨"load-imm", 0x6000#16, 0xF000#16, fun w => .loadImm (fieldX w) (fieldNN w)⟩, by
    simp [opcodeRows, opcodeRowsLow, opcodeRowsAlu, opcodeRowsHigh, opcodeRowsMisc],
    by simp [OpcodeRow.selects, encode, or_and_mask, atX_outside x, atNN_outside nn],
    by simp [encode, show fieldX 0x6000#16 = 0#4 from rfl, show fieldNN 0x6000#16 = 0#8 from rfl]⟩

theorem addImm (x : RegIdx) (nn : Byte) : Statement (.addImm x nn) :=
  ⟨⟨"add-imm", 0x7000#16, 0xF000#16, fun w => .addImm (fieldX w) (fieldNN w)⟩, by
    simp [opcodeRows, opcodeRowsLow, opcodeRowsAlu, opcodeRowsHigh, opcodeRowsMisc],
    by simp [OpcodeRow.selects, encode, or_and_mask, atX_outside x, atNN_outside nn],
    by simp [encode, show fieldX 0x7000#16 = 0#4 from rfl, show fieldNN 0x7000#16 = 0#8 from rfl]⟩

theorem move (x y : RegIdx) : Statement (.move x y) :=
  ⟨⟨"move", 0x8000#16, 0xF00F#16, fun w => .move (fieldX w) (fieldY w)⟩, by
    simp [opcodeRows, opcodeRowsLow, opcodeRowsAlu, opcodeRowsHigh, opcodeRowsMisc],
    by simp [OpcodeRow.selects, encode, or_and_mask, atX_outside x, atY_outside y],
    by simp [encode, show fieldX 0x8000#16 = 0#4 from rfl, show fieldY 0x8000#16 = 0#4 from rfl]⟩

theorem orReg (x y : RegIdx) : Statement (.orReg x y) :=
  ⟨⟨"or", 0x8001#16, 0xF00F#16, fun w => .orReg (fieldX w) (fieldY w)⟩, by
    simp [opcodeRows, opcodeRowsLow, opcodeRowsAlu, opcodeRowsHigh, opcodeRowsMisc],
    by simp [OpcodeRow.selects, encode, or_and_mask, atX_outside x, atY_outside y],
    by simp [encode, show fieldX 0x8001#16 = 0#4 from rfl, show fieldY 0x8001#16 = 0#4 from rfl]⟩

theorem andReg (x y : RegIdx) : Statement (.andReg x y) :=
  ⟨⟨"and", 0x8002#16, 0xF00F#16, fun w => .andReg (fieldX w) (fieldY w)⟩, by
    simp [opcodeRows, opcodeRowsLow, opcodeRowsAlu, opcodeRowsHigh, opcodeRowsMisc],
    by simp [OpcodeRow.selects, encode, or_and_mask, atX_outside x, atY_outside y],
    by simp [encode, show fieldX 0x8002#16 = 0#4 from rfl, show fieldY 0x8002#16 = 0#4 from rfl]⟩

theorem xorReg (x y : RegIdx) : Statement (.xorReg x y) :=
  ⟨⟨"xor", 0x8003#16, 0xF00F#16, fun w => .xorReg (fieldX w) (fieldY w)⟩, by
    simp [opcodeRows, opcodeRowsLow, opcodeRowsAlu, opcodeRowsHigh, opcodeRowsMisc],
    by simp [OpcodeRow.selects, encode, or_and_mask, atX_outside x, atY_outside y],
    by simp [encode, show fieldX 0x8003#16 = 0#4 from rfl, show fieldY 0x8003#16 = 0#4 from rfl]⟩

theorem add (x y : RegIdx) : Statement (.add x y) :=
  ⟨⟨"add", 0x8004#16, 0xF00F#16, fun w => .add (fieldX w) (fieldY w)⟩, by
    simp [opcodeRows, opcodeRowsLow, opcodeRowsAlu, opcodeRowsHigh, opcodeRowsMisc],
    by simp [OpcodeRow.selects, encode, or_and_mask, atX_outside x, atY_outside y],
    by simp [encode, show fieldX 0x8004#16 = 0#4 from rfl, show fieldY 0x8004#16 = 0#4 from rfl]⟩

theorem sub (x y : RegIdx) : Statement (.sub x y) :=
  ⟨⟨"sub", 0x8005#16, 0xF00F#16, fun w => .sub (fieldX w) (fieldY w)⟩, by
    simp [opcodeRows, opcodeRowsLow, opcodeRowsAlu, opcodeRowsHigh, opcodeRowsMisc],
    by simp [OpcodeRow.selects, encode, or_and_mask, atX_outside x, atY_outside y],
    by simp [encode, show fieldX 0x8005#16 = 0#4 from rfl, show fieldY 0x8005#16 = 0#4 from rfl]⟩

theorem shiftRight (x y : RegIdx) : Statement (.shiftRight x y) :=
  ⟨⟨"shift-right", 0x8006#16, 0xF00F#16, fun w => .shiftRight (fieldX w) (fieldY w)⟩, by
    simp [opcodeRows, opcodeRowsLow, opcodeRowsAlu, opcodeRowsHigh, opcodeRowsMisc],
    by simp [OpcodeRow.selects, encode, or_and_mask, atX_outside x, atY_outside y],
    by simp [encode, show fieldX 0x8006#16 = 0#4 from rfl, show fieldY 0x8006#16 = 0#4 from rfl]⟩

theorem subReverse (x y : RegIdx) : Statement (.subReverse x y) :=
  ⟨⟨"sub-reverse", 0x8007#16, 0xF00F#16, fun w => .subReverse (fieldX w) (fieldY w)⟩, by
    simp [opcodeRows, opcodeRowsLow, opcodeRowsAlu, opcodeRowsHigh, opcodeRowsMisc],
    by simp [OpcodeRow.selects, encode, or_and_mask, atX_outside x, atY_outside y],
    by simp [encode, show fieldX 0x8007#16 = 0#4 from rfl, show fieldY 0x8007#16 = 0#4 from rfl]⟩

theorem shiftLeft (x y : RegIdx) : Statement (.shiftLeft x y) :=
  ⟨⟨"shift-left", 0x800E#16, 0xF00F#16, fun w => .shiftLeft (fieldX w) (fieldY w)⟩, by
    simp [opcodeRows, opcodeRowsLow, opcodeRowsAlu, opcodeRowsHigh, opcodeRowsMisc],
    by simp [OpcodeRow.selects, encode, or_and_mask, atX_outside x, atY_outside y],
    by simp [encode, show fieldX 0x800E#16 = 0#4 from rfl, show fieldY 0x800E#16 = 0#4 from rfl]⟩

theorem skipNeReg (x y : RegIdx) (n : Nibble) : Statement (.skipNeReg x y n) :=
  ⟨⟨"skip-ne-reg", 0x9000#16, 0xF000#16, fun w => .skipNeReg (fieldX w) (fieldY w) (fieldN w)⟩, by
    simp [opcodeRows, opcodeRowsLow, opcodeRowsAlu, opcodeRowsHigh, opcodeRowsMisc],
    by simp [OpcodeRow.selects, encode, or_and_mask, atX_outside x, atY_outside y, atN_outside n],
    by simp [encode, show fieldX 0x9000#16 = 0#4 from rfl, show fieldY 0x9000#16 = 0#4 from rfl, show fieldN 0x9000#16 = 0#4 from rfl]⟩

theorem loadIndex (nnn : Addr) : Statement (.loadIndex nnn) :=
  ⟨⟨"load-index", 0xA000#16, 0xF000#16, fun w => .loadIndex (fieldNNN w)⟩, by
    simp [opcodeRows, opcodeRowsLow, opcodeRowsAlu, opcodeRowsHigh, opcodeRowsMisc],
    by simp [OpcodeRow.selects, encode, or_and_mask, atNNN_outside nnn],
    by simp [encode, show fieldNNN 0xA000#16 = 0#12 from rfl]⟩

theorem jumpOffset (nnn : Addr) : Statement (.jumpOffset nnn) :=
  ⟨⟨"jump-offset", 0xB000#16, 0xF000#16, fun w => .jumpOffset (fieldNNN w)⟩, by
    simp [opcodeRows, opcodeRowsLow, opcodeRowsAlu, opcodeRowsHigh, opcodeRowsMisc],
    by simp [OpcodeRow.selects, encode, or_and_mask, atNNN_outside nnn],
    by simp [encode, show fieldNNN 0xB000#16 = 0#12 from rfl]⟩

theorem random (x : RegIdx) (nn : Byte) : Statement (.random x nn) :=
  ⟨⟨"random", 0xC000#16, 0xF000#16, fun w => .random (fieldX w) (fieldNN w)⟩, by
    simp [opcodeRows, opcodeRowsLow, opcodeRowsAlu, opcodeRowsHigh, opcodeRowsMisc],
    by simp [OpcodeRow.selects, encode, or_and_mask, atX_outside x, atNN_outside nn],
    by simp [encode, show fieldX 0xC000#16 = 0#4 from rfl, show fieldNN 0xC000#16 = 0#8 from rfl]⟩

theorem draw (x y : RegIdx) (n : Nibble) : Statement (.draw x y n) :=
  ⟨⟨"draw", 0xD000#16, 0xF000#16, fun w => .draw (fieldX w) (fieldY w) (fieldN w)⟩, by
    simp [opcodeRows, opcodeRowsLow, opcodeRowsAlu, opcodeRowsHigh, opcodeRowsMisc],
    by simp [OpcodeRow.selects, encode, or_and_mask, atX_outside x, atY_outside y, atN_outside n],
    by simp [encode, show fieldX 0xD000#16 = 0#4 from rfl, show fieldY 0xD000#16 = 0#4 from rfl, show fieldN 0xD000#16 = 0#4 from rfl]⟩

theorem skipIfKey (x : RegIdx) : Statement (.skipIfKey x) :=
  ⟨⟨"skip-if-key", 0xE09E#16, 0xF0FF#16, fun w => .skipIfKey (fieldX w)⟩, by
    simp [opcodeRows, opcodeRowsLow, opcodeRowsAlu, opcodeRowsHigh, opcodeRowsMisc],
    by simp [OpcodeRow.selects, encode, or_and_mask, atX_outside x],
    by simp [encode, show fieldX 0xE09E#16 = 0#4 from rfl]⟩

theorem skipIfNotKey (x : RegIdx) : Statement (.skipIfNotKey x) :=
  ⟨⟨"skip-if-not-key", 0xE0A1#16, 0xF0FF#16, fun w => .skipIfNotKey (fieldX w)⟩, by
    simp [opcodeRows, opcodeRowsLow, opcodeRowsAlu, opcodeRowsHigh, opcodeRowsMisc],
    by simp [OpcodeRow.selects, encode, or_and_mask, atX_outside x],
    by simp [encode, show fieldX 0xE0A1#16 = 0#4 from rfl]⟩

theorem readDelay (x : RegIdx) : Statement (.readDelay x) :=
  ⟨⟨"read-delay", 0xF007#16, 0xF0FF#16, fun w => .readDelay (fieldX w)⟩, by
    simp [opcodeRows, opcodeRowsLow, opcodeRowsAlu, opcodeRowsHigh, opcodeRowsMisc],
    by simp [OpcodeRow.selects, encode, or_and_mask, atX_outside x],
    by simp [encode, show fieldX 0xF007#16 = 0#4 from rfl]⟩

theorem waitKey (x : RegIdx) : Statement (.waitKey x) :=
  ⟨⟨"wait-key", 0xF00A#16, 0xF0FF#16, fun w => .waitKey (fieldX w)⟩, by
    simp [opcodeRows, opcodeRowsLow, opcodeRowsAlu, opcodeRowsHigh, opcodeRowsMisc],
    by simp [OpcodeRow.selects, encode, or_and_mask, atX_outside x],
    by simp [encode, show fieldX 0xF00A#16 = 0#4 from rfl]⟩

theorem writeDelay (x : RegIdx) : Statement (.writeDelay x) :=
  ⟨⟨"write-delay", 0xF015#16, 0xF0FF#16, fun w => .writeDelay (fieldX w)⟩, by
    simp [opcodeRows, opcodeRowsLow, opcodeRowsAlu, opcodeRowsHigh, opcodeRowsMisc],
    by simp [OpcodeRow.selects, encode, or_and_mask, atX_outside x],
    by simp [encode, show fieldX 0xF015#16 = 0#4 from rfl]⟩

theorem writeSound (x : RegIdx) : Statement (.writeSound x) :=
  ⟨⟨"write-sound", 0xF018#16, 0xF0FF#16, fun w => .writeSound (fieldX w)⟩, by
    simp [opcodeRows, opcodeRowsLow, opcodeRowsAlu, opcodeRowsHigh, opcodeRowsMisc],
    by simp [OpcodeRow.selects, encode, or_and_mask, atX_outside x],
    by simp [encode, show fieldX 0xF018#16 = 0#4 from rfl]⟩

theorem addIndex (x : RegIdx) : Statement (.addIndex x) :=
  ⟨⟨"add-index", 0xF01E#16, 0xF0FF#16, fun w => .addIndex (fieldX w)⟩, by
    simp [opcodeRows, opcodeRowsLow, opcodeRowsAlu, opcodeRowsHigh, opcodeRowsMisc],
    by simp [OpcodeRow.selects, encode, or_and_mask, atX_outside x],
    by simp [encode, show fieldX 0xF01E#16 = 0#4 from rfl]⟩

theorem fontAddress (x : RegIdx) : Statement (.fontAddress x) :=
  ⟨⟨"font-address", 0xF029#16, 0xF0FF#16, fun w => .fontAddress (fieldX w)⟩, by
    simp [opcodeRows, opcodeRowsLow, opcodeRowsAlu, opcodeRowsHigh, opcodeRowsMisc],
    by simp [OpcodeRow.selects, encode, or_and_mask, atX_outside x],
    by simp [encode, show fieldX 0xF029#16 = 0#4 from rfl]⟩

theorem bcd (x : RegIdx) : Statement (.bcd x) :=
  ⟨⟨"bcd", 0xF033#16, 0xF0FF#16, fun w => .bcd (fieldX w)⟩, by
    simp [opcodeRows, opcodeRowsLow, opcodeRowsAlu, opcodeRowsHigh, opcodeRowsMisc],
    by simp [OpcodeRow.selects, encode, or_and_mask, atX_outside x],
    by simp [encode, show fieldX 0xF033#16 = 0#4 from rfl]⟩

theorem storeRegs (x : RegIdx) : Statement (.storeRegs x) :=
  ⟨⟨"store-regs", 0xF055#16, 0xF0FF#16, fun w => .storeRegs (fieldX w)⟩, by
    simp [opcodeRows, opcodeRowsLow, opcodeRowsAlu, opcodeRowsHigh, opcodeRowsMisc],
    by simp [OpcodeRow.selects, encode, or_and_mask, atX_outside x],
    by simp [encode, show fieldX 0xF055#16 = 0#4 from rfl]⟩

theorem loadRegs (x : RegIdx) : Statement (.loadRegs x) :=
  ⟨⟨"load-regs", 0xF065#16, 0xF0FF#16, fun w => .loadRegs (fieldX w)⟩, by
    simp [opcodeRows, opcodeRowsLow, opcodeRowsAlu, opcodeRowsHigh, opcodeRowsMisc],
    by simp [OpcodeRow.selects, encode, or_and_mask, atX_outside x],
    by simp [encode, show fieldX 0xF065#16 = 0#4 from rfl]⟩

end Sys2Proof.Laws.RowOfEncoding
end

