-- ==== Sys2Proof/Laws/Reset.lean ====
section
/-! SUPPORT. The reset state with any table for the parameter FONT_DATA (R6, R59): it differs from `State.reset` in
memory alone, and not at all with the default table. -/

namespace Sys2Proof.Machine

variable (font : FontData)

/-- The table is no more than memory contents. -/
theorem State.resetWith_eq : State.resetWith font = { State.reset with mem := (State.resetWith font).mem } :=
  State.memWriteList_eq State.reset 0x000 font.toList

/-- A font cell holds the table's byte. -/
theorem State.memRead_resetWith_font {a : Nat} (h : a < 80) : (State.resetWith font).memRead a = font[a] := by
  have := State.memRead_memWriteList_covered (s := State.reset) rfl 0x000 font.toList (by simp) a (by simpa using h)
  simpa [State.resetWith] using this

/-- A cell outside the font is that of `State.reset`. -/
theorem State.memRead_resetWith_other {a : Nat} (h : 80 ≤ a % 4096) :
    (State.resetWith font).memRead a = State.reset.memRead a := by
  refine State.memRead_memWriteList_other _ _ _ _ fun k hk => ?_
  simp at hk
  omega

end Sys2Proof.Machine
end

