-- ==== Sys2Proof/Laws/Step.lean ====
section
/-! SUPPORT. What a step can do, said once (R94), and pc after a skip. -/

namespace Sys2Proof.Machine

variable {s t : State}

/-- With the gate open a step runs what the word at pc decodes to. -/
theorem step_active (hr : s.runState = .running) (hf : s.fault = .none) :
    step s =
      match decodeWord s.fetchWord with
      | none => .next s.afterFetch
      | some i =>
        match exec i s.afterFetch with
        | .next t => .next (s.commit t)
        | .fault r => .fault r
        | .refused r => .refused r := by
  unfold step
  exact if_pos (State.active_iff.mpr ⟨hr, hf⟩)

/-- With the gate closed a step changes nothing. -/
theorem step_gated (h : s.runState ≠ .running ∨ s.fault ≠ .none) : step s = .next s := by
  rw [step, if_neg]
  rw [State.active_iff]
  tauto

/-- Every way a step answers a next state. -/
theorem step_cases (h : step s = .next t) :
    ((s.runState ≠ .running ∨ s.fault ≠ .none) ∧ t = s) ∨
    (s.runState = .running ∧ s.fault = .none ∧
      ((decodeWord s.fetchWord = none ∧ t = s.afterFetch) ∨
        ∃ i u, decodeWord s.fetchWord = some i ∧ exec i s.afterFetch = .next u ∧ t = s.commit u)) := by
  by_cases hr : s.runState = .running
  · by_cases hf : s.fault = .none
    · refine .inr ⟨hr, hf, ?_⟩
      rw [step_active hr hf] at h
      split at h
      · next hd => exact .inl ⟨hd, by cases h; rfl⟩
      · next i hd =>
        split at h
        · next u hu => exact .inr ⟨i, u, hd, hu, by cases h; rfl⟩
        · cases h
        · cases h
    · rw [step_gated (.inr hf)] at h
      exact .inl ⟨.inr hf, by cases h; rfl⟩
  · rw [step_gated (.inl hr)] at h
    exact .inl ⟨.inl hr, by cases h; rfl⟩

/-- pc after a skip, from pc before its fetch (R25, R118). -/
theorem State.pc_skipIf_afterFetch (s : State) (b : Bool) :
    (s.afterFetch.skipIf b).pc.toNat = (s.pc.toNat + if b then 4 else 2) % 65536 := by
  rw [State.skipIf_eq]
  cases b <;> simp [State.setPc, BitVec.toNat_add]

end Sys2Proof.Machine
end

