-- ==== Sys2Proof/Tests/Slice0.lean ====
section
/-! SUPPORT. Tests: the well-formedness smoke, a written-out word for every constructor, small one-step tests whose
expected results are the spec's own (95_test_vectors.md, named in each test), and for every obligation with hypotheses
a concrete state that meets them (the theorems `witness_...`). -/

namespace Sys2Proof.Tests

open Sys2Proof Sys2Proof.Machine

/-! ### Helpers -/

/-- The state an outcome goes on in. -/
def nx : Result → Option State
  | .next t => some t
  | .fault _ => none
  | .refused _ => none

/-- The reset state with some registers set. -/
def regs (l : List (RegIdx × Byte)) : State := l.foldl (fun s p => s.setReg p.1 p.2) State.reset

/-- The word `w` placed at pc. -/
def put (w : Word) (s : State) : State := s.memWriteList s.pc.toNat (wordBytes w)

/-- The state one STEP over the word `w`, placed at pc, leaves. -/
def run (w : Word) (s : State) : State := stepState (put w s)

/-- The bytes of `n` cells from `a`. -/
def bytes (s : State) (a n : Nat) : List Byte := (List.range n).map (fun k => s.memRead (a + k))

/-- A row of the framebuffer, columns 0 to `n - 1`. -/
def row (s : State) (y n : Nat) : List Bool := (List.range n).map (fun x => s.pixel x y)

/-- The step of `s` runs and ends in `t`: the hypotheses of the statements about a step. -/
def Steps (s t : State) : Prop := s.runState = .running ∧ s.fault = .none ∧ step s = .next t

/-! ### WellFormed (R96): an ill-formed term for each check -/

theorem test_wf_skipEqReg : (Instr.skipEqReg 1 2 0).wellFormed = true ∧ (Instr.skipEqReg 1 2 1).wellFormed = false := by
  decide

theorem test_wf_skipNeReg : (Instr.skipNeReg 1 2 0).wellFormed = true ∧ (Instr.skipNeReg 1 2 15).wellFormed = false := by
  decide

/-! ### Decoding: the words of every constructor, written out from its "Encoding" line -/

theorem test_decode_family0 : decodeWord 0x00E0#16 = some .clearScreen ∧ decodeWord 0x00EE#16 = some .ret := by decide

theorem test_decode_jump_call :
    decodeWord 0b0001001000110100#16 = some (.jump 0x234) ∧ decodeWord 0b0010001100000000#16 = some (.call 0x300) := by
  decide

theorem test_decode_skip_imm :
    decodeWord 0b0011000100000000#16 = some (.skipEqImm 1 0x00) ∧
    decodeWord 0b0100000100000101#16 = some (.skipNeImm 1 0x05) := by decide

theorem test_decode_skip_reg :
    decodeWord 0b0101000100100001#16 = some (.skipEqReg 1 2 1) ∧
    decodeWord 0b1001000100101111#16 = some (.skipNeReg 1 2 0xF) := by decide

theorem test_decode_imm :
    decodeWord 0b0110111110101010#16 = some (.loadImm 0xF 0xAA) ∧
    decodeWord 0b0111000111111111#16 = some (.addImm 1 0xFF) := by decide

theorem test_decode_move_logic :
    decodeWord 0b1000000100100000#16 = some (.move 1 2) ∧ decodeWord 0b1000000100100001#16 = some (.orReg 1 2) ∧
    decodeWord 0b1000000100100010#16 = some (.andReg 1 2) ∧ decodeWord 0b1000000100100011#16 = some (.xorReg 1 2) := by
  decide

theorem test_decode_arithmetic :
    decodeWord 0b1000000100100100#16 = some (.add 1 2) ∧ decodeWord 0b1000000100100101#16 = some (.sub 1 2) ∧
    decodeWord 0b1000000100100110#16 = some (.shiftRight 1 2) ∧
    decodeWord 0b1000000100100111#16 = some (.subReverse 1 2) ∧
    decodeWord 0b1000000100101110#16 = some (.shiftLeft 1 2) := by decide

theorem test_decode_index_jump :
    decodeWord 0b1010000100100011#16 = some (.loadIndex 0x123) ∧
    decodeWord 0b1011111111111111#16 = some (.jumpOffset 0xFFF) := by decide

theorem test_decode_random_draw :
    decodeWord 0b1100001100001111#16 = some (.random 3 0x0F) ∧ decodeWord 0b1101000100100101#16 = some (.draw 1 2 5) := by
  decide

theorem test_decode_keys :
    decodeWord 0b1110001010011110#16 = some (.skipIfKey 2) ∧
    decodeWord 0b1110001010100001#16 = some (.skipIfNotKey 2) ∧ decodeWord 0b1111000100001010#16 = some (.waitKey 1) := by
  decide

theorem test_decode_timers :
    decodeWord 0b1111011100000111#16 = some (.readDelay 7) ∧ decodeWord 0b1111000000010101#16 = some (.writeDelay 0) ∧
    decodeWord 0b1111010000011000#16 = some (.writeSound 4) := by decide

theorem test_decode_index_misc :
    decodeWord 0b1111000100011110#16 = some (.addIndex 1) ∧ decodeWord 0b1111000000101001#16 = some (.fontAddress 0) ∧
    decodeWord 0b1111101000110011#16 = some (.bcd 0xA) ∧ decodeWord 0b1111111101010101#16 = some (.storeRegs 0xF) ∧
    decodeWord 0b1111001001100101#16 = some (.loadRegs 2) := by decide

/-- FE4's words, each in its no-op space. -/
theorem test_decode_noOps :
    ([0x0000#16, 0x0123#16, 0x01E0#16, 0x0AEE#16, 0x8AB8#16, 0x8ABF#16, 0xE19F#16, 0xF0FF#16, 0xF1A0#16].map
      (fun w => (decodeWord w, noOpSpace w))) =
    [(none, .noOpFamily0), (none, .noOpFamily0), (none, .noOpFamily0), (none, .noOpFamily0), (none, .noOpFamily8),
     (none, .noOpFamily8), (none, .noOpFamilyE), (none, .noOpFamilyF), (none, .noOpFamilyF)] := by decide

theorem test_decode_bytes : decode [0xA2#8, 0x1E#8, 0xD0#8] = .ok (.loadIndex 0x21E, [0xD0#8]) := rfl

theorem test_decode_truncated : decode [0xA2#8] = .error .truncated := rfl

/-- P3's assembly against its words. -/
theorem test_asm_lines :
    asmLine "call 0x210" = .ok [0x22#8, 0x10#8] ∧ asmLine "load-imm rA, 156" = .ok [0x6A#8, 0x9C#8] ∧
    asmLine ".word 0x0000" = .ok [0x00#8, 0x00#8] ∧ asmLine "bcd rA" = .ok [0xFA#8, 0x33#8] := ⟨rfl, rfl, rfl, rfl⟩

/-- R96's refusals. -/
theorem test_asm_refuses :
    asmLine "load-imm r1, 256" = .error .tooLarge ∧ asmLine "jump 0x1000" = .error .tooLarge ∧
    asmLine "draw r1, r2, 16" = .error .tooLarge := ⟨rfl, rfl, rfl⟩

/-! ### The instruction cycle (V-FETCH) -/

/-- FE1: the fetch straddles the wrap of the address. -/
theorem test_FE1 :
    let t := stepState { State.reset.memWrite 0xFFF 0x60 with pc := 0x0FFF }
    t.reg 0 = 0xF0 ∧ t.pc = 0x1001 := by decide

/-- FE2, FE3: pc is a 16-bit register, and its top 4 bits are not used by the fetch. -/
theorem test_FE2_FE3 :
    (run 0x6107 { State.reset with pc := 0xFFFE }).pc = 0x0000 ∧
    (run 0x6201 { State.reset with pc := 0x1200 }).pc = 0x1202 := by decide

/-- FE4. -/
theorem test_FE4 :
    [0x0000#16, 0x0123#16, 0x01E0#16, 0x0AEE#16, 0x8AB8#16, 0x8ABF#16, 0xE19F#16, 0xF0FF#16, 0xF1A0#16].all
      (fun w => run w (regs [(1, 1)]) == { put w (regs [(1, 1)]) with pc := 0x202, ir := w }) = true := by decide

/-- FE7, HS10: a paused machine. -/
theorem test_FE7 : nx (step { put 0x6105 State.reset with runState := .paused }) =
    some { put 0x6105 State.reset with runState := .paused } := by decide

/-! ### Control transfer (V-FLOW) -/

theorem test_CT1_CT2 :
    (run 0x1234 State.reset).pc = 0x0234 ∧ (run 0x1201 { State.reset with pc := 0x300 }).pc = 0x0201 := by decide

theorem test_CT4 :
    let t := run 0x2300 { State.reset with pc := 0x0FFE }
    t.stack[0] = 0x1000 ∧ t.sp = 1 ∧ t.pc = 0x0300 := by decide

theorem test_CT5 :
    let s := put 0x2300 { State.reset with sp := 12 }
    stepState s = { s with fault := .stackOverflow } := by decide

theorem test_CT6 :
    let t := run 0x00EE { State.reset with sp := 1, stack := State.reset.stack.set 0 0x0206#16, pc := 0x212 }
    t.pc = 0x0206 ∧ t.sp = 0 := by decide

theorem test_CT7 :
    let s := put 0x00EE State.reset
    stepState s = { s with fault := .stackUnderflow } := by decide

theorem test_CT8_CT9 :
    (run 0x3100 { State.reset with pc := 0x208 }).pc = 0x020C ∧
    (run 0x3100 { regs [(1, 1)] with pc := 0x208 }).pc = 0x020A := by decide

theorem test_CT11_CT12 : (run 0x4105 (regs [(1, 5)])).pc = 0x202 ∧ (run 0x4106 (regs [(1, 5)])).pc = 0x204 := by decide

/-- FE5: decision D7. -/
theorem test_FE5 : (run 0x5121 (regs [(1, 7), (2, 7)])).pc = 0x204 ∧ (run 0x5121 (regs [(1, 7), (2, 8)])).pc = 0x202 := by
  decide

/-- FE6, CT14. -/
theorem test_FE6_CT14 : (run 0x9121 (regs [(1, 7), (2, 8)])).pc = 0x204 ∧ (run 0x9110 State.reset).pc = 0x202 := by decide

/-- CT15, CT16: the sum is not cut to 12 bits. -/
theorem test_CT15_CT16 : (run 0xB300 (regs [(0, 4)])).pc = 0x0304 ∧ (run 0xBFFF (regs [(0, 0xFF)])).pc = 0x10FE := by
  decide

/-! ### ALU (V-ALU) -/

/-- AL1, and W7's 6005. -/
theorem test_AL1 : (run 0x6FAA State.reset).reg 0xF = 0xAA ∧ (run 0x6005 State.reset).reg 0 = 5 := by decide

theorem test_AL2_AL3 :
    (run 0x7101 (regs [(1, 0xFF), (0xF, 0x55)])).reg 1 = 0x00 ∧ (run 0x71FF (regs [(1, 0xFF), (0xF, 0x55)])).reg 1 = 0xFE ∧
    (run 0x7101 (regs [(1, 0xFF), (0xF, 0x55)])).reg 0xF = 0x55 := by decide

theorem test_AL4 : (run 0x8120 (regs [(1, 1), (2, 0x9A)])).reg 1 = 0x9A := by decide

theorem test_AL6 :
    let t := run 0x8121 (regs [(1, 0xF0), (2, 0x0F), (0xF, 0x77)])
    t.reg 1 = 0xFF ∧ t.reg 0xF = 0x77 := by decide

theorem test_AL7_AL8 :
    (run 0x8122 (regs [(1, 0xF0), (2, 0x3C)])).reg 1 = 0x30 ∧ (run 0x8123 (regs [(1, 0xFF), (2, 0x0F)])).reg 1 = 0xF0 := by
  decide

/-- AL10. -/
theorem test_AL10 :
    let t := run 0x8014 (regs [(0, 0x80), (1, 0x80)])
    t.reg 0 = 0x00 ∧ t.reg 0xF = 1 := by decide

/-- W1 with X = F: the flag wins. -/
theorem test_W1_F : (run 0x8F14 (regs [(0xF, 0x10), (1, 0xF5)])).reg 0xF = 1 := by decide

/-- W2 with Y = F: the operands are read before the flag is written. -/
theorem test_W2_YF :
    let t := run 0x81F5 (regs [(1, 5), (0xF, 7)])
    t.reg 1 = 0xFE ∧ t.reg 0xF = 0 := by decide

theorem test_W2_XF :
    (run 0x8F15 (regs [(0xF, 0x10), (1, 5)])).reg 0xF = 1 ∧ (run 0x8F15 (regs [(0xF, 5), (1, 0x10)])).reg 0xF = 0 := by
  decide

theorem test_AL15 :
    let t := run 0x8017 (regs [(0, 5), (1, 3)])
    t.reg 0 = 0xFE ∧ t.reg 0xF = 0 := by decide

theorem test_AL18 :
    let t := run 0x81F7 (regs [(1, 2), (0xF, 1)])
    t.reg 1 = 0xFF ∧ t.reg 0xF = 0 := by decide

/-- AL21: reg[Y] is ignored. -/
theorem test_AL21 :
    let t := run 0x8126 (regs [(1, 0xFF)])
    t.reg 1 = 0x7F ∧ t.reg 0xF = 1 := by decide

theorem test_AL22 : (run 0x8F06 (regs [(0xF, 3)])).reg 0xF = 1 := by decide

theorem test_AL24 :
    let t := run 0x810E (regs [(1, 0x81)])
    t.reg 1 = 0x02 ∧ t.reg 0xF = 1 := by decide

theorem test_AL26 : (run 0x8F0E (regs [(0xF, 0x80)])).reg 0xF = 1 := by decide

/-- AL28, AL29: the draw is consumed also with NN = 0. -/
theorem test_AL28_AL29 :
    (run 0xC30F { State.reset with rndQueue := [0xAB] }).reg 3 = 0x0B ∧
    (run 0xC300 { regs [(3, 9)] with rndQueue := [0xFF] }).reg 3 = 0x00 ∧
    (run 0xC300 { regs [(3, 9)] with rndQueue := [0xFF] }).rndQueue = [] := by decide

/-! ### Index and memory (V-INDEX) -/

theorem test_IX1 : (run 0xA123 State.reset).index = 0x0123 := by decide

theorem test_IX2_IX3 :
    (run 0xF11E { regs [(1, 2)] with index := 0xFFFF }).index = 0x0001 ∧
    (run 0xF11E { regs [(1, 1), (0xF, 0x77)] with index := 0x0FFF }).index = 0x1000 ∧
    (run 0xF11E { regs [(1, 1), (0xF, 0x77)] with index := 0x0FFF }).reg 0xF = 0x77 := by decide

theorem test_IX4_IX5 :
    (run 0xF029 (regs [(0, 0x0F)])).index = 0x004B ∧ (run 0xF029 (regs [(0, 0xFF)])).index = 0x04FB := by decide

theorem test_IX6 : bytes (run 0xF033 { regs [(0, 156)] with index := 0x300 }) 0x300 3 = [1, 5, 6] := by decide

/-- IX7: each address wraps on its own, over the font. -/
theorem test_IX7 : bytes (run 0xF033 { regs [(0, 123)] with index := 0x0FFE }) 0xFFE 3 = [1, 2, 3] := by decide

/-- IX8: X inclusive, and I stays. -/
theorem test_IX8 :
    let t := run 0xF055 { regs [(0, 0xAA), (1, 0xBB)] with index := 0x300 }
    bytes t 0x300 2 = [0xAA, 0x00] ∧ t.index = 0x300 := by decide

/-- IX9: FF55 stores reg[0xF] last. -/
theorem test_IX9 : bytes (run 0xFF55 { regs [(0xE, 0xEE), (0xF, 0xFF)] with index := 0x300 }) 0x30E 3 = [0xEE, 0xFF, 0x00] := by
  decide

theorem test_IX11 :
    let t := run 0xF265 { State.reset.memWrite 0xFFF 0x07 with index := 0x0FFF }
    t.reg 0 = 0x07 ∧ t.reg 1 = 0xF0 ∧ t.reg 2 = 0x90 ∧ t.index = 0x0FFF := by decide

/-! ### Display (V-DISPLAY) -/

/-- A framebuffer with these cells on. -/
def lit (cells : List (Nat × Nat)) : Framebuffer :=
  cells.foldl (fun fb c => Framebuffer.setCell fb c.1 c.2 true) Framebuffer.clear

/-- DR1, W8c: glyph 0 of the default font. -/
theorem test_DR1 :
    let t := run 0xD005 State.reset
    (List.range 6).map (fun y => row t y 5) =
      [[true, true, true, true, false], [true, false, false, true, false], [true, false, false, true, false],
       [true, false, false, true, false], [true, true, true, true, false], [false, false, false, false, false]] ∧
    t.reg 0xF = 0 := by decide

/-- DR5: a collision, and a cell the sprite leaves alone. -/
theorem test_DR5 :
    let t := run 0xD011 { State.reset.memWrite 0x300 0xC0 with index := 0x300, fb := lit [(1, 0), (5, 0)] }
    row t 0 6 = [true, false, false, false, false, true] ∧ t.reg 0xF = 1 := by decide

/-- DR7: the coordinates are latched before reg[F] is cleared (decision D13). -/
theorem test_DR7 :
    let t := run 0xDF01 { (regs [(0xF, 5), (0, 2)]).memWrite 0x300 0x80 with index := 0x300 }
    t.pixel 5 2 = true ∧ t.reg 0xF = 0 := by decide

/-- DR8: the sprite body does not wrap. -/
theorem test_DR8 :
    let t := run 0xD011 { (regs [(0, 62), (1, 0)]).memWrite 0x300 0xFF with index := 0x300, fb := lit [(0, 0)] }
    (t.pixel 62 0, t.pixel 63 0, t.pixel 0 0, t.pixel 1 0, t.reg 0xF) = (true, true, true, false, 0) := by decide

/-- DR9, W3. -/
theorem test_W3 : (run 0x00E0 { State.reset with fb := lit [(4, 3), (63, 31)] }).fb = Framebuffer.clear := by decide

/-- R33: cell (x, y) is bit y * 64 + x of the output. -/
theorem test_fbOut : { State.reset with fb := lit [(1, 0), (2, 1)] }.fbOut = 2 ^ 1 + 2 ^ 66 := by decide

/-! ### Keypad and timers (V-KEY, V-TIMER) -/

theorem test_KY1_KY2 :
    (run 0xE29E { regs [(2, 3)] with keypad := 0x0008 }).pc = 0x204 ∧ (run 0xE29E (regs [(2, 3)])).pc = 0x202 := by decide

theorem test_KY3_KY4 :
    (run 0xE2A1 { regs [(2, 3)] with keypad := 0x0008 }).pc = 0x202 ∧ (run 0xE2A1 (regs [(2, 3)])).pc = 0x204 := by decide

theorem test_KY5 :
    let s := put 0xE29E (regs [(2, 0x10)])
    stepState s = { s with fault := .keyIndexRange } := by decide

theorem test_KY6 :
    let s := put 0xE2A1 (regs [(2, 0xFF)])
    stepState s = { s with fault := .keyIndexRange } := by decide

/-- KY7, KY10: pc goes back to A. -/
theorem test_KY7_KY10 :
    (run 0xF10A (regs [(1, 0x77)])).pc = 0x200 ∧ (run 0xF10A (regs [(1, 0x77)])).reg 1 = 0x77 ∧
    (run 0xF00A { State.reset with pc := 0x0000 }).pc = 0x0000 := by decide

/-- KY8: the lowest key (decision D12). -/
theorem test_KY8 :
    let t := run 0xF10A { State.reset with keypad := 0x0220 }
    t.reg 1 = 0x05 ∧ t.pc = 0x202 := by decide

/-- R213: the delay timer is read as it stands. -/
theorem test_readDelay : (run 0xF707 { State.reset with delayTimer := 0x2A }).reg 7 = 0x2A := by decide

theorem test_TM2_TM3 :
    (run 0xF015 (regs [(0, 3)])).delayTimer = 3 ∧ (run 0xF418 (regs [(4, 0x0A)])).soundTimer = 0x0A ∧
    (run 0xF418 (regs [(4, 0x0A)])).tone = true := by decide

theorem test_TM4 :
    let t := tick { State.reset with soundTimer := 1 }
    t.delayTimer = 0 ∧ t.soundTimer = 0 ∧ t.tone = false := by decide

/-! ### Host commands (V-HOST) -/

theorem test_HS1_HS4 :
    (togglePause State.reset).runState = .paused ∧ (togglePause (togglePause State.reset)).runState = .running ∧
    (togglePause (quit State.reset)).runState = .halted := by decide

/-- HS6, HS5. -/
theorem test_HS6_HS5 :
    (togglePause { State.reset with fault := .stackUnderflow }).fault = .stackUnderflow ∧
    perform defaultFont .reset { quit (regs [(1, 1)]) with fault := .stackUnderflow, pc := 0 } = State.reset := by decide

/-- HS9. -/
theorem test_HS9 :
    let t := performAll defaultFont [.load [0x60, 0x05], .step 0 0, .load [0x61, 0x07]] State.reset
    bytes t 0x200 2 = [0x61, 0x07] ∧ t.pc = 0x202 ∧ t.reg 0 = 5 := by decide

/-- The default FONT_DATA gives the machine the host runs. -/
theorem test_default_font : State.resetWith defaultFont = State.reset := by decide

theorem test_default_block : blockWith defaultFont = Sys2Proof.core := by
  rw [blockWith, test_default_font, Sys2Proof.core]

/-- R59, R42: another FONT_DATA stands at 0x000-0x04F after a reset and nowhere else, and FX65 over the wrap reads it. -/
theorem test_other_font :
    let s := perform (Vector.replicate 80 0xAB#8) .reset (regs [(1, 1)])
    let t := run 0xF265 { s with index := 0x0FFF }
    bytes s 0 1 = [0xAB] ∧ bytes s 79 3 = [0xAB, 0x00, 0x00] ∧ (t.reg 0, t.reg 1, t.reg 2) = (0x00, 0xAB, 0xAB) := by
  decide

/-! ### The host's two functions -/

theorem test_withFetchWord :
    decodeTableWord 16 0x8126 = some (.shiftRight 1 2) ∧
    (stepState ((regs [(1, 0xFF)]).withFetchWord 16 0x8126)).reg 1 = 0x7F ∧
    (stepState ({ quit State.reset with fault := .stackOverflow }.withFetchWord 16 0x6005)).reg 0 = 5 := by decide

/-! ### Witnesses: the hypotheses of the statements, met together -/

theorem witness_EncodeOfDecode :
    decodeWord 0x5121#16 = some (.skipEqReg 1 2 1) ∧ decodeWord 0x8FFE#16 = some (.shiftLeft 0xF 0xF) := by decide

/-- Each clause of the statement at the edges of its range, and the words between the clauses. -/
theorem witness_NoOpWords :
    [0x0000#16, 0x0FFF#16, 0x8008#16, 0x8FFF#16, 0xE000#16, 0xEFFF#16, 0xF000#16, 0xFFFF#16].all
      (fun w => decodeWord w == none) = true ∧
    [0x00E0#16, 0x00EE#16, 0x8007#16, 0x800E#16, 0xE09E#16, 0xE0A1#16, 0xF007#16, 0xF065#16, 0x1000#16, 0xDFFF#16].all
      (fun w => decodeWord w != none) = true := by decide

theorem witness_DecoderTakesTwoBytes :
    decode [0x12#8, 0x34#8] = .ok (.jump 0x234, []) ∧ decode [0x12#8, 0x34#8, 0xAB#8] = .ok (.jump 0x234, [0xAB#8]) :=
  ⟨rfl, rfl⟩

theorem witness_AssemblerWritesTheWellFormed :
    asmInstr "jump".toList [.num 0xFFF] = .ok (.jump 0xFFF) ∧
    asmInstr "skip-eq-reg".toList [.reg 1, .reg 2] = .ok (.skipEqReg 1 2 0) ∧
    asmInstr "jump".toList [.num 0x1000] = .error .tooLarge ∧
    mnemonicOf (.jump 0xFFF) = some "jump" ∧ (Instr.jump 0xFFF).wellFormed = true := ⟨rfl, rfl, rfl, rfl, rfl⟩

theorem witness_StepRunsTheDecodedInstruction :
    let s := put 0x5121 State.reset
    s.runState = .running ∧ s.fault = .none ∧
      decode [s.memRead s.pc.toNat, s.memRead (s.pc.toNat + 1)] = .ok (.skipEqReg 1 2 1, []) := ⟨rfl, rfl, rfl⟩

theorem witness_NoOpWordOnlyAdvancesPc :
    let s := put 0x8AB8 { State.reset with pc := 0xFFFE }
    s.runState = .running ∧ s.fault = .none ∧ decodeWord s.fetchWord = none := by decide

theorem witness_GatedStepChangesNothing :
    (quit State.reset).runState ≠ .running ∧ { State.reset with fault := .keyIndexRange }.fault ≠ .none := by decide

/-- Rows of R25's table: a no-op word and an ordinary instruction at the wrap, the transfers, a skip taken and not
taken, both outcomes of wait-key, and a step that faults. -/
theorem witness_PcAfterEveryStep_plain :
    let s := put 0x0000 { State.reset with pc := 0xFFFE }
    let s' := put 0x6001 { State.reset with pc := 0xFFFE }
    Steps s (stepState s) ∧ pcAfter s (decodeWord s.fetchWord) = 0 ∧
    Steps s' (stepState s') ∧ pcAfter s' (decodeWord s'.fetchWord) = 0 :=
  ⟨⟨rfl, rfl, rfl⟩, by decide, ⟨rfl, rfl, rfl⟩, by decide⟩

theorem witness_PcAfterEveryStep_transfers :
    let j := put 0x1FFF State.reset
    let b := put 0xBFFF (regs [(0, 0xFF)])
    let r := put 0x00EE { State.reset with sp := 12, stack := State.reset.stack.set 11 0xFFFF#16 }
    Steps j (stepState j) ∧ pcAfter j (decodeWord j.fetchWord) = 0xFFF ∧
    Steps b (stepState b) ∧ pcAfter b (decodeWord b.fetchWord) = 0x10FE ∧
    Steps r (stepState r) ∧ pcAfter r (decodeWord r.fetchWord) = 0xFFFF :=
  ⟨⟨rfl, rfl, rfl⟩, by decide, ⟨rfl, rfl, rfl⟩, by decide, ⟨rfl, rfl, rfl⟩, by decide⟩

theorem witness_PcAfterEveryStep_skips :
    let y := put 0x3000 { State.reset with pc := 0xFFFE }
    let n := put 0x4000 { State.reset with pc := 0xFFFE }
    Steps y (stepState y) ∧ pcAfter y (decodeWord y.fetchWord) = 2 ∧
    Steps n (stepState n) ∧ pcAfter n (decodeWord n.fetchWord) = 0 :=
  ⟨⟨rfl, rfl, rfl⟩, by decide, ⟨rfl, rfl, rfl⟩, by decide⟩

theorem witness_PcAfterEveryStep_waitKey :
    let w := put 0xF10A State.reset
    let k := put 0xF10A { State.reset with keypad := 0x8000 }
    Steps w (stepState w) ∧ pcAfter w (decodeWord w.fetchWord) = 0x200 ∧
    Steps k (stepState k) ∧ pcAfter k (decodeWord k.fetchWord) = 0x202 :=
  ⟨⟨rfl, rfl, rfl⟩, by decide, ⟨rfl, rfl, rfl⟩, by decide⟩

/-- Each of the three causes of a fault: hypotheses of FaultIsPrecise, FaultsHaveExactlyTheirCauses and of
PcAfterEveryStep's second case. -/
theorem witness_Faults :
    let o := put 0x2300 { State.reset with sp := 12 }
    let u := put 0x00EE State.reset
    let k := put 0xE09E (regs [(0, 16)])
    let k' := put 0xE0A1 (regs [(0, 255)])
    Steps o (stepState o) ∧ (stepState o).fault = .stackOverflow ∧
    Steps u (stepState u) ∧ (stepState u).fault = .stackUnderflow ∧
    Steps k (stepState k) ∧ (stepState k).fault = .keyIndexRange ∧
    Steps k' (stepState k') ∧ (stepState k').fault = .keyIndexRange :=
  ⟨⟨rfl, rfl, rfl⟩, rfl, ⟨rfl, rfl, rfl⟩, rfl, ⟨rfl, rfl, rfl⟩, rfl, ⟨rfl, rfl, rfl⟩, rfl⟩

/-- The edges below each cause: no fault with 11 entries, with 1 entry, with key 15, with a no-op word. -/
theorem witness_NoFaults :
    let c := put 0x2300 { State.reset with sp := 11 }
    let r := put 0x00EE { State.reset with sp := 1 }
    let k := put 0xE09E (regs [(0, 15)])
    let n := put 0xE09F (regs [(0, 16)])
    Steps c (stepState c) ∧ (stepState c).fault = .none ∧ Steps r (stepState r) ∧ (stepState r).fault = .none ∧
    Steps k (stepState k) ∧ (stepState k).fault = .none ∧ Steps n (stepState n) ∧ (stepState n).fault = .none :=
  ⟨⟨rfl, rfl, rfl⟩, rfl, ⟨rfl, rfl, rfl⟩, rfl, ⟨rfl, rfl, rfl⟩, rfl, ⟨rfl, rfl, rfl⟩, rfl⟩

/-- The hypotheses of StepWritesOnlyWhatTheTablesName and StepNeverChangesRunStateOrKeypad, on a storing instruction. -/
theorem witness_StepWrites :
    let s := put 0xFF55 { regs [(0, 1)] with index := 0xFFF }
    Steps s (stepState s) ∧ decodeWord s.fetchWord = some (.storeRegs 0xF) := ⟨⟨rfl, rfl, rfl⟩, by decide⟩

theorem witness_FaultIsStickyUntilReset :
    { State.reset with fault := .stackOverflow }.fault ≠ .none ∧ (.tick : Command) ≠ .reset := by decide

/-- An invariant state whose memory lists cells: hypothesis of WriteChangesExactlyOneCell, of the transfers to memory
and of LOAD. -/
theorem witness_Inv : State.reset.Inv ∧ ((State.reset.memWrite 0xFFF 7).memWrite 0x1000 1).Inv := by decide

theorem witness_StepKeepsMemoryCanonical :
    let s := put 0xFF55 { regs [(0, 1), (0xF, 0xFF)] with index := 0xFFF }
    s.Inv ∧ Steps s (stepState s) ∧ (stepState s).mem ≠ s.mem := ⟨by decide, ⟨rfl, rfl, rfl⟩, by decide⟩

theorem witness_StoredInstructionIsFetchedNext :
    let s := { State.reset with index := 0xFFFF, pc := 0x0FFF }
    s.Inv ∧ 1 ≤ (1#4 : RegIdx).toNat ∧ 1 ≤ (15#4 : RegIdx).toNat ∧ s.index.toNat % 4096 = s.pc.toNat % 4096 := by decide

theorem witness_Return :
    0 < { State.reset with sp := 1 }.sp.val ∧ 0 < { State.reset with sp := 12 }.sp.val ∧ State.reset.sp.val = 0 := by decide

theorem witness_ReturnOnEmptyStackFaults :
    let s := put 0x00EE State.reset
    s.sp.val = 0 ∧ s.runState = .running ∧ s.fault = .none ∧ decodeWord s.fetchWord = some .ret := by decide

theorem witness_Call : State.reset.sp.val < 12 ∧ { State.reset with sp := 11 }.sp.val < 12 := by decide

theorem witness_CallOnFullStackFaults :
    let s := put 0x2FFF { State.reset with sp := 12 }
    s.sp.val = 12 ∧ s.runState = .running ∧ s.fault = .none ∧ decodeWord s.fetchWord = some (.call 0xFFF) := by decide

/-- The stack a call leaves, in a state that differs elsewhere. -/
theorem witness_CallThenReturnRestoresPc :
    let s := { State.reset with sp := 11 }
    ∃ t t' : State, nx (exec (.call 0x210) s) = some t ∧ t'.stack = t.stack ∧ t'.sp = t.sp ∧ t'.pc ≠ t.pc :=
  ⟨_, { State.reset with sp := 12, stack := State.reset.stack.set 11 0x0200#16 }, rfl, by decide, by decide, by decide⟩

/-- Both sides of the condition on X in the statements of the additions, subtractions and shifts. -/
theorem witness_FlagRegister : (0xE#4 : RegIdx) ≠ 0xF#4 ∧ flagReg = 0xF#4 := by decide

theorem witness_RandomMasksOneConsumedDraw :
    { State.reset with rndQueue := [0xAB, 0x01] }.rndQueue = 0xAB :: [0x01] ∧ State.reset.rndQueue = [] := by decide

/-- X's edges in the statements of FX55 and FX65. -/
theorem witness_RegisterRange : (0#4 : RegIdx).toNat ≤ (0#4 : RegIdx).toNat ∧ (15#4 : RegIdx).toNat ≤ (15#4 : RegIdx).toNat := by
  decide

/-- A second draw's state as the statement asks for it: the first draw's framebuffer, other registers changed. -/
theorem witness_DrawTwiceRestoresTheScreen :
    let s := { (regs [(0, 127), (1, 63)]).memWrite 0x300 0x80 with index := 0x300 }
    let t := run 0xD011 s
    ∃ s' : State, s'.fb = t.fb ∧ s'.index = s.index ∧ (s'.reg 0).toNat % 64 = (s.reg 0).toNat % 64 ∧
      (s'.reg 1).toNat % 32 = (s.reg 1).toNat % 32 ∧
      (∀ r, r < (1#4 : Nibble).toNat → s'.memRead (s.index.toNat + r) = s.memRead (s.index.toNat + r)) ∧
      s'.reg 0 ≠ s.reg 0 :=
  ⟨{ (regs [(0, 63), (1, 31)]).memWrite 0x300 0x80 with
      index := 0x300, fb := lit [(63, 31)] }, by decide, rfl, by decide, by decide, by decide, by decide⟩

/-- The last cell of the grid: hypotheses of the statements about cells. -/
theorem witness_LastCell : 63 < 64 ∧ 31 < 32 ∧ { State.reset with fb := lit [(63, 31)] }.pixel 63 31 = true := by decide

theorem witness_SkipsOnKey : ((regs [(2, 0)]).reg 2).toNat ≤ 15 ∧ ((regs [(2, 15)]).reg 2).toNat ≤ 15 := by decide

theorem witness_KeyIndexOutOfRangeFaults :
    let s := put 0xE29E (regs [(2, 16)])
    let s' := put 0xE2A1 (regs [(2, 255)])
    (s.reg 2).toNat > 15 ∧ s.runState = .running ∧ s.fault = .none ∧ decodeWord s.fetchWord = some (.skipIfKey 2) ∧
    (s'.reg 2).toNat > 15 ∧ s'.runState = .running ∧ s'.fault = .none ∧
      decodeWord s'.fetchWord = some (.skipIfNotKey 2) := by decide

theorem witness_WaitKeyRefetchesWithNoKeyDown : ∀ k, k < 16 → State.reset.keypad.getLsbD k = false := by decide

theorem witness_WaitKeyTakesTheLowestKey :
    let s := { State.reset with keypad := 0xFFFF }
    let s' := { State.reset with keypad := 0x8000 }
    s.keypad.getLsbD 0 = true ∧ (∀ j, j < 0 → s.keypad.getLsbD j = false) ∧
    s'.keypad.getLsbD 15 = true ∧ (∀ j, j < 15 → s'.keypad.getLsbD j = false) := by decide

theorem witness_TicksCountDownToZero :
    State.reset.runState = .running ∧ { State.reset with delayTimer := 3 }.fault = .none := by decide

theorem witness_RunStateMachine :
    (togglePause State.reset).runState ≠ .running ∧ { State.reset with fault := .stackOverflow }.fault ≠ .none ∧
    (quit State.reset).runState = .halted ∧ (.togglePause : Command) ≠ .reset := by decide

/-- The edges of the reset memory's clauses: the last font byte (R59, default table) and the cells after it. -/
theorem witness_ResetValues :
    (perform defaultFont .reset (regs [(1, 1)])).memRead 79 = 0x80 ∧ (perform defaultFont .reset (regs [(1, 1)])).memRead 80 = 0 ∧
    (perform defaultFont .reset (regs [(1, 1)])).memRead 4095 = 0 := by decide

theorem witness_Load :
    State.reset.Inv ∧ ([] : List Byte).length ≤ 3584 ∧ (List.replicate 3584 0xFF#8).length ≤ 3584 ∧
    (List.replicate 3585 0xFF#8).length > 3584 := by
  refine ⟨rfl, Nat.zero_le _, ?_, ?_⟩ <;> rw [List.length_replicate]
  decide

end Sys2Proof.Tests
end

section
/-! The two-byte read and the instruction fetch (20_memory.md R53, R54). -/

namespace Sys2Proof.Machine

/-- Two bytes put side by side, the left one high, as a number. -/
theorem Byte.toNat_append (hi lo : Byte) : (hi ++ lo : Word).toNat = 256 * hi.toNat + lo.toNat := by
  rw [BitVec.toNat_append, ← Nat.shiftLeft_add_eq_or_of_lt lo.isLt, Nat.shiftLeft_eq, Nat.mul_comm]

/-- R53: the byte at the lower address is the high one. -/
theorem State.memRead2_toNat (s : State) (a : Nat) :
    (s.memRead2 a).toNat = 256 * (s.memRead a).toNat + (s.memRead (a + 1)).toNat :=
  Byte.toNat_append (s.memRead a) (s.memRead (a + 1))

/-- Settles O12: the two-byte read's value (`State.memRead2_toNat`), where `memRead` reduces each byte's address
mod 4096 by its definition, and the fetch is the two-byte read at pc by its definition. -/
theorem fetchIsBigEndian : Obligations.FetchIsBigEndian := by
  intro s a
  constructor
  · exact s.memRead2_toNat a
  · rfl

end Sys2Proof.Machine
end

section
/-! Decoding through the opcode map (30_encoding.md R86): no word is selected by two rows, so a row that selects a word
is the one that decodes it. -/

namespace Sys2Proof

/-- Two rows that disagree on a bit both masks look at. -/
abbrev OpcodeRow.Apart (r r' : OpcodeRow) : Prop := r.value &&& r'.mask ≠ r'.value &&& r.mask

theorem OpcodeRow.apart_symm : Std.Symm OpcodeRow.Apart := ⟨fun _ _ h => h.symm⟩

/-- Rows that are apart select no word in common. -/
theorem OpcodeRow.Apart.not_selects {r r' : OpcodeRow} (h : r.Apart r') {w : Word} (hr : r.selects w = true) :
    r'.selects w ≠ true := by
  intro hr'
  have hv : w &&& r.mask = r.value := by simpa [OpcodeRow.selects] using hr
  have hv' : w &&& r'.mask = r'.value := by simpa [OpcodeRow.selects] using hr'
  apply h
  calc r.value &&& r'.mask = w &&& r.mask &&& r'.mask := by rw [hv]
    _ = w &&& r'.mask &&& r.mask := by rw [BitVec.and_assoc, BitVec.and_comm r.mask, ← BitVec.and_assoc]
    _ = r'.value &&& r.mask := by rw [hv']

/-- The rows of R86 are apart, each from every other. -/
theorem opcodeRows_pairwise_apart : opcodeRows.Pairwise OpcodeRow.Apart := by decide

/-- A word is selected by at most one row. -/
theorem opcodeRow_unique {r r' : OpcodeRow} {w : Word} (hm : r ∈ opcodeRows) (hm' : r' ∈ opcodeRows)
    (hs : r.selects w = true) (hs' : r'.selects w = true) : r = r' := by
  by_contra hne
  have := OpcodeRow.apart_symm
  have hapart : r.Apart r' := opcodeRows_pairwise_apart.forall hm hm' hne
  exact hapart.not_selects hs hs'

/-- The row that selects a word decodes it. -/
theorem decodeWord_of_selects {r : OpcodeRow} {w : Word} (hm : r ∈ opcodeRows) (hs : r.selects w = true) :
    decodeWord w = some (r.make w) := by
  rw [decodeWord]
  cases hf : opcodeRows.find? (·.selects w) with
  | none => exact absurd hs (List.find?_eq_none.mp hf r hm)
  | some r' =>
    have hs' : r'.selects w = true := List.find?_some (p := fun row : OpcodeRow => row.selects w) hf
    have hr : r = r' := opcodeRow_unique hm (List.mem_of_find?_eq_some hf) hs hs'
    rw [Option.map_some, hr]

/-- An instruction whose word has a row is read back from that word: with `Laws.RowOfEncoding`, one decoding fact for
each instruction. -/
theorem decodeWord_encode {i : Instr} (h : Laws.RowOfEncoding.Statement i) : decodeWord (encode i) = some i := by
  obtain ⟨r, hm, hs, hmake⟩ := h
  rw [decodeWord_of_selects hm hs, hmake]

end Sys2Proof
end

section
/-! Jumps and the skips on an immediate (40_flow.md R111, R113, R114, R117, R118). -/

namespace Sys2Proof.Machine

open Laws

/-- R118: pc after a skip, from the pc the skip runs at. -/
theorem State.pc_skipIf (s : State) (b : Bool) :
    (s.skipIf b).pc.toNat = if b then (s.pc.toNat + 2) % 65536 else s.pc.toNat := by
  rw [State.skipIf_eq, State.setPc_pc]
  cases b
  · rfl
  · exact BitVec.toNat_add s.pc 2#16

/-- R117: a 12-bit address and a byte sum to at most 0x10FE, so the 16-bit sum is exact. -/
theorem State.toNat_offsetTarget (s : State) (nnn : Addr) :
    (s.offsetTarget nnn).toNat = nnn.toNat + (s.reg 0x0#4).toNat := by
  have hnnn : nnn.toNat < 4096 := nnn.isLt
  have hreg : (s.reg 0x0#4).toNat < 256 := (s.reg 0x0#4).isLt
  have hext : ((s.reg 0x0#4).zeroExtend 16).toNat = (s.reg 0x0#4).toNat :=
    BitVec.toNat_setWidth_of_le (by decide)
  rw [State.offsetTarget, BitVec.toNat_add, toNat_addrOperand, hext]
  omega

/-- Settles O26: the target is the zero-extended operand (`toNat_addrOperand`), and writing pc changes nothing else. -/
theorem jumpSetsPc : Obligations.JumpSetsPc := by
  intro nnn
  refine ⟨decodeWord_encode (RowOfEncoding.jump nnn), fun s => ?_⟩
  exact ⟨s.setPc (addrOperand nnn), rfl, toNat_addrOperand nnn, Frame.setPc s _⟩

/-- Settles O30: both skips are `State.skipIf`, on the comparison and on its negation. -/
theorem skipsOnImmediate : Obligations.SkipsOnImmediate := by
  intro x nn
  refine ⟨decodeWord_encode (RowOfEncoding.skipEqImm x nn), decodeWord_encode (RowOfEncoding.skipNeImm x nn),
    fun s => ⟨?_, ?_⟩⟩
  · refine ⟨s.skipIf (s.reg x == nn), rfl, ?_, Frame.skipIf s _⟩
    rw [State.pc_skipIf]
    simp only [beq_iff_eq]
  · refine ⟨s.skipIf (s.reg x != nn), rfl, ?_, Frame.skipIf s _⟩
    rw [State.pc_skipIf]
    simp only [bne_iff_ne, ite_not]

/-- Settles O32: the sum's value is exact (`State.toNat_offsetTarget`), and writing pc changes nothing else. -/
theorem jumpOffsetAddsRegisterZero : Obligations.JumpOffsetAddsRegisterZero := by
  intro nnn
  refine ⟨decodeWord_encode (RowOfEncoding.jumpOffset nnn), fun s => ?_⟩
  exact ⟨s.setPc (s.offsetTarget nnn), rfl, s.toNat_offsetTarget nnn, Frame.setPc s _⟩

end Sys2Proof.Machine
end

section
/-! The ALU and register moves (41_alu.md R141-R151). -/

namespace Sys2Proof.Machine

open Laws

/-- A word that a rule's encoding line writes out as `encode` does is decoded to that instruction. The equation is apart
from the decoding so that comparing the two words never unfolds the decoder. -/
theorem decodeWord_of_eq_encode {i : Instr} {w : Word} (h : RowOfEncoding.Statement i) (hw : w = encode i) :
    decodeWord w = some i := by
  rw [hw, decodeWord_encode h]

/-! ### Results and flags as numbers -/

theorem toNat_sumByte (a b : Byte) : (sumByte a b).toNat = (a.toNat + b.toNat) % 256 := BitVec.toNat_ofNat _ 8

theorem toNat_diffByte (a b : Byte) : (diffByte a b).toNat = (a.toNat + 256 - b.toNat) % 256 :=
  BitVec.toNat_ofNat _ 8

theorem toNat_carryFlag (a b : Byte) : (carryFlag a b).toNat = if a.toNat + b.toNat > 255 then 1 else 0 := by
  simp only [carryFlag, toNat_flagByte, decide_eq_true_eq]

theorem toNat_notBorrowFlag (a b : Byte) : (notBorrowFlag a b).toNat = if a.toNat ≥ b.toNat then 1 else 0 := by
  simp only [notBorrowFlag, toNat_flagByte, decide_eq_true_eq]

/-- The flag of one bit of a byte is that bit's digit in the byte's binary value. -/
theorem toNat_flagByte_getLsbD (a : Byte) (k : Nat) : (flagByte (a.getLsbD k)).toNat = a.toNat / 2 ^ k % 2 := by
  rw [toNat_flagByte, ← BitVec.testBit_toNat, ← Nat.toNat_testBit]
  cases a.toNat.testBit k <;> rfl

theorem toNat_lowBitFlag (a : Byte) : (lowBitFlag a).toNat = a.toNat % 2 := by
  rw [lowBitFlag, toNat_flagByte_getLsbD, Nat.pow_zero, Nat.div_one]

/-- Bit 7 is a byte's highest digit. -/
theorem toNat_highBitFlag (a : Byte) : (highBitFlag a).toNat = a.toNat / 128 := by
  have ha : a.toNat < 256 := a.isLt
  rw [highBitFlag, toNat_flagByte_getLsbD]
  omega

theorem toNat_shiftRight_one (a : Byte) : (a >>> 1).toNat = a.toNat / 2 := by
  rw [BitVec.toNat_ushiftRight, Nat.shiftRight_eq_div_pow, Nat.pow_one]

theorem toNat_shiftLeft_one (a : Byte) : (a <<< 1).toNat = a.toNat * 2 % 256 := by
  rw [BitVec.toNat_shiftLeft, Nat.shiftLeft_eq, Nat.pow_one]

/-! ### The instructions without a flag -/

/-- Settles O33: one register write (`Frame.setReg`). -/
theorem loadImmWritesTheByte : Obligations.LoadImmWritesTheByte := by
  intro x nn
  refine ⟨decodeWord_of_eq_encode (RowOfEncoding.loadImm x nn) rfl, fun s => ?_⟩
  exact ⟨s.setReg x nn, rfl, s.reg_setReg_same x nn, rfl, Frame.setReg s x nn⟩

/-- Settles O34: one register write, of the sum mod 256 (`toNat_sumByte`). -/
theorem addImmWrapsWithoutFlag : Obligations.AddImmWrapsWithoutFlag := by
  intro x nn
  refine ⟨decodeWord_of_eq_encode (RowOfEncoding.addImm x nn) rfl, fun s => ?_⟩
  refine ⟨s.setReg x (sumByte (s.reg x) nn), rfl, ?_, rfl, Frame.setReg s x _⟩
  rw [State.reg_setReg_same, toNat_sumByte]

/-- Settles O35: one register write, of the old reg[Y]. -/
theorem moveCopiesTheRegister : Obligations.MoveCopiesTheRegister := by
  intro x y
  refine ⟨decodeWord_of_eq_encode (RowOfEncoding.move x y) rfl, fun s => ?_⟩
  exact ⟨s.setReg x (s.reg y), rfl, s.reg_setReg_same x _, rfl, Frame.setReg s x _⟩

/-- Settles O36: one register write each, of a word operation that acts bit by bit. -/
theorem logicIsBitwiseWithoutFlag : Obligations.LogicIsBitwiseWithoutFlag := by
  intro x y
  refine ⟨decodeWord_of_eq_encode (RowOfEncoding.orReg x y) rfl,
    decodeWord_of_eq_encode (RowOfEncoding.andReg x y) rfl,
    decodeWord_of_eq_encode (RowOfEncoding.xorReg x y) rfl, fun s => ⟨?_, ?_, ?_⟩⟩
  · refine ⟨s.setReg x (s.reg x ||| s.reg y), rfl, fun k => ?_, rfl, Frame.setReg s x _⟩
    rw [State.reg_setReg_same, BitVec.getLsbD_or]
  · refine ⟨s.setReg x (s.reg x &&& s.reg y), rfl, fun k => ?_, rfl, Frame.setReg s x _⟩
    rw [State.reg_setReg_same, BitVec.getLsbD_and]
  · refine ⟨s.setReg x (s.reg x ^^^ s.reg y), rfl, fun k => ?_, rfl, Frame.setReg s x _⟩
    rw [State.reg_setReg_same, BitVec.getLsbD_xor]

/-! ### The instructions with a flag -/

/-- R140, once for all five of them: an instruction that ends with `State.writeResultAndFlag` leaves the flag in reg[F],
the result in reg[X] where X is not F, and everything else as it was. -/
theorem exec_of_writeResultAndFlag {i : Instr} {s : State} {x : RegIdx} {v f : Byte} {result flag : Nat}
    (hexec : exec i s = .next (s.writeResultAndFlag x v f)) (hflag : f.toNat = flag) (hresult : v.toNat = result) :
    ∃ t, exec i s = .next t ∧ (t.reg 0xF#4).toNat = flag ∧ (x ≠ 0xF#4 → (t.reg x).toNat = result) ∧
      t.pc = s.pc ∧ Frame (fun r => r = x ∨ r = 0xF#4) noCells [] s t := by
  refine ⟨s.writeResultAndFlag x v f, hexec, ?_, fun hx => ?_, rfl, Frame.writeResultAndFlag s x v f⟩
  · rw [State.reg_writeResultAndFlag, if_pos (show 0xF#4 = flagReg from rfl), hflag]
  · rw [State.reg_writeResultAndFlag, if_neg (show x ≠ flagReg from hx), if_pos rfl, hresult]

/-- Settles O37: the flag written last is the carry of the old values. -/
theorem addSetsCarry : Obligations.AddSetsCarry := by
  intro x y
  refine ⟨decodeWord_of_eq_encode (RowOfEncoding.add x y) rfl, fun s => ?_⟩
  exact exec_of_writeResultAndFlag rfl (toNat_carryFlag _ _) (toNat_sumByte _ _)

/-- Settles O38: the two subtractions differ in the order of the operands alone. -/
theorem subtractionsSetNotBorrow : Obligations.SubtractionsSetNotBorrow := by
  intro x y
  refine ⟨decodeWord_of_eq_encode (RowOfEncoding.sub x y) rfl,
    decodeWord_of_eq_encode (RowOfEncoding.subReverse x y) rfl, fun s => ⟨?_, ?_⟩⟩
  · exact exec_of_writeResultAndFlag rfl (toNat_notBorrowFlag _ _) (toNat_diffByte _ _)
  · exact exec_of_writeResultAndFlag rfl (toNat_notBorrowFlag _ _) (toNat_diffByte _ _)

/-- Settles O39: the flag is the digit that the halving, or the doubling mod 256, of reg[X] drops. -/
theorem shiftsMoveOneBitIntoTheFlag : Obligations.ShiftsMoveOneBitIntoTheFlag := by
  intro x y
  refine ⟨decodeWord_of_eq_encode (RowOfEncoding.shiftRight x y) rfl,
    decodeWord_of_eq_encode (RowOfEncoding.shiftLeft x y) rfl, fun s => ⟨?_, ?_⟩⟩
  · exact exec_of_writeResultAndFlag rfl (toNat_lowBitFlag _) (toNat_shiftRight_one _)
  · exact exec_of_writeResultAndFlag rfl (toNat_highBitFlag _) (toNat_shiftLeft_one _)

end Sys2Proof.Machine
end

section
/-! The index register and the memory transfers (42_index_memory.md R171, R174-R176). -/

namespace Sys2Proof.Machine

open Laws

/-- R170: `I + 0` is I. -/
@[simp] theorem State.dataAddr_zero (s : State) : s.dataAddr 0 = s.index.toNat := Nat.add_zero _

/-- R174: the digits hold the quotients and remainders exactly, none of them being above 9. -/
theorem map_toNat_bcdDigits (v : Byte) :
    (bcdDigits v).map BitVec.toNat = [v.toNat / 100, v.toNat / 10 % 10, v.toNat % 10] := by
  have hv : v.toNat < 256 := v.isLt
  have hundreds : v.toNat / 100 % 2 ^ 8 = v.toNat / 100 := Nat.mod_eq_of_lt (by omega)
  have tens : v.toNat / 10 % 10 % 2 ^ 8 = v.toNat / 10 % 10 := Nat.mod_eq_of_lt (by omega)
  have ones : v.toNat % 10 % 2 ^ 8 = v.toNat % 10 := Nat.mod_eq_of_lt (by omega)
  simp only [bcdDigits, List.map_cons, List.map_nil, BitVec.toNat_ofNat, hundreds, tens, ones]

/-- R170, once for FX33 and FX55: an instruction that ends by writing a list of bytes from I upward, no longer than the
memory, leaves the k-th byte at `I + k`, and everything outside those cells as it was. -/
theorem exec_of_memWriteList {i : Instr} {s : State} {vs : List Byte} (hs : s.Inv) (hlen : vs.length ≤ 4096)
    (hexec : exec i s = .next (s.memWriteList (s.dataAddr 0) vs)) :
    ∃ t, exec i s = .next t ∧ (∀ k (hk : k < vs.length), t.memRead (s.index.toNat + k) = vs[k]) ∧
      t.pc = s.pc ∧ Frame noRegs (cellsFrom s.index.toNat vs.length) [] s t := by
  rw [State.dataAddr_zero] at hexec
  exact ⟨s.memWriteList s.index.toNat vs, hexec, State.memRead_memWriteList_covered hs _ vs hlen,
    State.memWriteList_pc s _ vs, Frame.memWriteList s _ vs⟩

/-- Settles O41: one write of I, of the zero-extended operand (`toNat_addrOperand`). -/
theorem loadIndexSetsI : Obligations.LoadIndexSetsI := by
  intro nnn
  refine ⟨decodeWord_of_eq_encode (RowOfEncoding.loadIndex nnn) rfl, fun s => ?_⟩
  exact ⟨s.setIndex (addrOperand nnn), rfl, toNat_addrOperand nnn, rfl, Frame.setIndex s _⟩

/-- Settles O43: the three bytes written from I upward are the digits (`map_toNat_bcdDigits`). -/
theorem bcdStoresThreeDigits : Obligations.BcdStoresThreeDigits := by
  intro x
  refine ⟨decodeWord_of_eq_encode (RowOfEncoding.bcd x) rfl, fun s hs => ?_⟩
  have hlen : (bcdDigits (s.reg x)).length = 3 := rfl
  obtain ⟨t, hexec, hcells, hpc, hframe⟩ :=
    exec_of_memWriteList (i := .bcd x) (vs := bcdDigits (s.reg x)) hs (by omega) rfl
  have hdigits := map_toNat_bcdDigits (s.reg x)
  simp only [bcdDigits, List.map_cons, List.map_nil, List.cons.injEq, and_true] at hdigits
  obtain ⟨hundreds, tens, ones⟩ := hdigits
  refine ⟨t, hexec, ?_, ?_, ?_, hpc, hframe⟩
  · exact (congrArg BitVec.toNat (hcells 0 (by omega))).trans hundreds
  · exact (congrArg BitVec.toNat (hcells 1 (by omega))).trans tens
  · exact (congrArg BitVec.toNat (hcells 2 (by omega))).trans ones

/-- Settles O44: the k-th byte written from I upward is reg[k] (`State.getElem_regList`). -/
theorem storeRegsCopiesRegistersOut : Obligations.StoreRegsCopiesRegistersOut := by
  intro x
  refine ⟨decodeWord_of_eq_encode (RowOfEncoding.storeRegs x) rfl, fun s hs => ?_⟩
  have hx : x.toNat < 16 := x.isLt
  have hlen : (s.regList (x.toNat + 1)).length = x.toNat + 1 := s.length_regList _
  obtain ⟨t, hexec, hcells, hpc, hframe⟩ :=
    exec_of_memWriteList (i := .storeRegs x) (vs := s.regList (x.toNat + 1)) hs (by omega) rfl
  rw [hlen] at hframe
  refine ⟨t, hexec, fun k hk => ?_, hpc, hframe⟩
  rw [hcells k.toNat (by omega), State.getElem_regList, BitVec.ofNat_toNat, BitVec.setWidth_eq]

/-- Settles O45: after loading X + 1 registers, each of them holds its cell (`State.reg_loadRegList`). -/
theorem loadRegsCopiesMemoryIn : Obligations.LoadRegsCopiesMemoryIn := by
  intro x
  refine ⟨decodeWord_of_eq_encode (RowOfEncoding.loadRegs x) rfl, fun s => ?_⟩
  have hx : x.toNat + 1 ≤ 16 := x.isLt
  refine ⟨s.loadRegList (x.toNat + 1), rfl, fun k hk => ?_, ?_, ?_⟩
  · rw [State.reg_loadRegList s _ hx, if_pos (Nat.lt_succ_of_le hk), State.dataAddr]
  · rw [State.loadRegList_eq]
  · exact (Frame.loadRegList s hx).mono (fun _ => Nat.le_of_lt_succ) (fun _ => id) (fun _ => id)

end Sys2Proof.Machine
end

section
/-! The display's clearing (43_display.md R190). -/

namespace Sys2Proof.Machine
open Sys2Proof.Laws

/-- R190: the state after clear-screen has every cell off. -/
theorem State.pixel_setFb_clear (s : State) (x y : Nat) : (s.setFb Framebuffer.clear).pixel x y = false :=
  Framebuffer.cell_clear x y

/-- Settles O46: one framebuffer write (`Frame.setFb`), of the framebuffer with every cell off. -/
theorem clearScreenTurnsEveryCellOff : Obligations.ClearScreenTurnsEveryCellOff := by
  refine ⟨decodeWord_of_eq_encode RowOfEncoding.clearScreen rfl, fun s => ?_⟩
  exact ⟨s.setFb Framebuffer.clear, rfl, fun x y _ _ => s.pixel_setFb_clear x y, rfl, Frame.setFb s _⟩

end Sys2Proof.Machine
end

section
/-! The timer instructions (44_keypad_timer.md R213-R215). -/

namespace Sys2Proof.Machine

open Laws

/-- Settles O54: FX07 is one register write, FX15 and FX18 are one write of their timer, each with its frame. -/
theorem timerInstructionsMoveTheTimers : Obligations.TimerInstructionsMoveTheTimers := by
  intro x
  refine ⟨decodeWord_of_eq_encode (RowOfEncoding.readDelay x) rfl,
    decodeWord_of_eq_encode (RowOfEncoding.writeDelay x) rfl,
    decodeWord_of_eq_encode (RowOfEncoding.writeSound x) rfl, fun s => ⟨?_, ?_, ?_⟩⟩
  · exact ⟨s.setReg x s.delayTimer, rfl, s.reg_setReg_same x _, rfl, Frame.setReg s x _⟩
  · exact ⟨s.setDelay (s.reg x), rfl, s.setDelay_delayTimer _, s.setDelay_pc _, Frame.setDelay s _⟩
  · exact ⟨s.setSound (s.reg x), rfl, s.setSound_soundTimer _, s.setSound_pc _, Frame.setSound s _⟩

end Sys2Proof.Machine
end

section
/-! The countdown timers (60_exceptions.md R240, R241). -/

namespace Sys2Proof.Machine

variable {s : State}

/-- R241: with the gate open a tick writes both timers, each decremented. -/
theorem tick_active (hr : s.runState = .running) (hf : s.fault = .none) :
    tick s = (s.setDelay (decrement s.delayTimer)).setSound (decrement s.soundTimer) :=
  if_pos (State.active_iff.mpr ⟨hr, hf⟩)

/-- R240: one acting tick takes each timer down by 1, floored at 0, and changes nothing else. -/
theorem tick_counts_down (hr : s.runState = .running) (hf : s.fault = .none) :
    (tick s).delayTimer.toNat = s.delayTimer.toNat - 1 ∧ (tick s).soundTimer.toNat = s.soundTimer.toNat - 1 ∧
      (tick s).pc = s.pc ∧ Frame noRegs noCells [.delay, .sound] s (tick s) := by
  rw [tick_active hr hf]
  refine ⟨toNat_decrement s.delayTimer, toNat_decrement s.soundTimer, rfl, ?_⟩
  exact ((Frame.setDelay s _).mono (fun _ => id) (fun _ => id) (by simp)).trans
    ((Frame.setSound _ _).mono (fun _ => id) (fun _ => id) (by simp))

/-- Settles O55, by induction on the number of ticks: a tick's frame keeps the run state and the fault register, so the
gate stays open for the next one. -/
theorem ticksCountDownToZero : Obligations.TicksCountDownToZero := by
  intro s k hr hf
  induction k with
  | zero => exact ⟨rfl, rfl, rfl, Frame.refl noRegs noCells [.delay, .sound] s⟩
  | succ k ih =>
    obtain ⟨hdelay, hsound, hpc, hframe⟩ := ih
    have hrunning : (tick^[k] s).runState = .running := hframe.runState_kept.trans hr
    have hfaultless : (tick^[k] s).fault = .none := (hframe.fault_kept (by decide)).trans hf
    obtain ⟨hdelay', hsound', hpc', hframe'⟩ := tick_counts_down hrunning hfaultless
    rw [Function.iterate_succ_apply']
    refine ⟨?_, ?_, hpc'.trans hpc, hframe.trans hframe'⟩
    · rw [hdelay', hdelay, Nat.sub_sub]
    · rw [hsound', hsound, Nat.sub_sub]

end Sys2Proof.Machine
end

section
/-! LOAD's two answers (70_reset_and_hazards.md R273, R274). -/

namespace Sys2Proof.Machine

variable {bytes : List Byte}

/-- R273: a program that fits is written from PROGRAM_BASE upward. -/
theorem load_of_length_le (s : State) (hfits : bytes.length ≤ Config.maxProgram) :
    load bytes s = (.ok, s.memWriteList Config.programBase bytes) :=
  if_pos hfits

/-- R274: a program that does not fit leaves the whole state. -/
theorem load_of_length_gt (s : State) (hlarge : bytes.length > Config.maxProgram) :
    load bytes s = (.programTooLarge, s) :=
  if_neg (Nat.not_le_of_gt hlarge)

/-- Settles O58: one clause for each of LOAD's answers; 3584 bytes are the largest program that fits. -/
theorem loadRefusesTooLargeAProgram : Obligations.LoadRefusesTooLargeAProgram := by
  intro s bytes
  refine ⟨fun hlarge => load_of_length_gt s hlarge, fun hexact => ?_⟩
  rw [load_of_length_le s hexact.le]

end Sys2Proof.Machine
end

section
/-! Decoding and encoding undo each other (30_encoding.md R81-R86). -/

namespace Sys2Proof

open Laws

/-- `Laws.RowOfEncoding`, for every instruction at once. -/
theorem rowOfEncoding : ∀ i : Instr, RowOfEncoding.Statement i
  | .clearScreen => RowOfEncoding.clearScreen
  | .ret => RowOfEncoding.ret
  | .jump nnn => RowOfEncoding.jump nnn
  | .call nnn => RowOfEncoding.call nnn
  | .skipEqImm x nn => RowOfEncoding.skipEqImm x nn
  | .skipNeImm x nn => RowOfEncoding.skipNeImm x nn
  | .skipEqReg x y n => RowOfEncoding.skipEqReg x y n
  | .loadImm x nn => RowOfEncoding.loadImm x nn
  | .addImm x nn => RowOfEncoding.addImm x nn
  | .move x y => RowOfEncoding.move x y
  | .orReg x y => RowOfEncoding.orReg x y
  | .andReg x y => RowOfEncoding.andReg x y
  | .xorReg x y => RowOfEncoding.xorReg x y
  | .add x y => RowOfEncoding.add x y
  | .sub x y => RowOfEncoding.sub x y
  | .shiftRight x y => RowOfEncoding.shiftRight x y
  | .subReverse x y => RowOfEncoding.subReverse x y
  | .shiftLeft x y => RowOfEncoding.shiftLeft x y
  | .skipNeReg x y n => RowOfEncoding.skipNeReg x y n
  | .loadIndex nnn => RowOfEncoding.loadIndex nnn
  | .jumpOffset nnn => RowOfEncoding.jumpOffset nnn
  | .random x nn => RowOfEncoding.random x nn
  | .draw x y n => RowOfEncoding.draw x y n
  | .skipIfKey x => RowOfEncoding.skipIfKey x
  | .skipIfNotKey x => RowOfEncoding.skipIfNotKey x
  | .readDelay x => RowOfEncoding.readDelay x
  | .waitKey x => RowOfEncoding.waitKey x
  | .writeDelay x => RowOfEncoding.writeDelay x
  | .writeSound x => RowOfEncoding.writeSound x
  | .addIndex x => RowOfEncoding.addIndex x
  | .fontAddress x => RowOfEncoding.fontAddress x
  | .bcd x => RowOfEncoding.bcd x
  | .storeRegs x => RowOfEncoding.storeRegs x
  | .loadRegs x => RowOfEncoding.loadRegs x

/-- Settles O1: every instruction's word has a row (`rowOfEncoding`), and the row that selects a word decodes it
(`decodeWord_encode`). -/
theorem decodeOfEncode : Obligations.DecodeOfEncode := fun i => decodeWord_encode (rowOfEncoding i)

/-! ### A word from its fields: a field put back where it was read is the word's share under the field's mask -/

theorem atX_fieldX (w : Word) : atX (fieldX w) = w &&& 0x0F00#16 := by
  apply BitVec.eq_of_getLsbD_eq
  intro k hk
  rw [getLsbD_atX]
  interval_cases k <;> simp [fieldX]

theorem atY_fieldY (w : Word) : atY (fieldY w) = w &&& 0x00F0#16 := by
  apply BitVec.eq_of_getLsbD_eq
  intro k hk
  rw [getLsbD_atY]
  interval_cases k <;> simp [fieldY]

theorem atN_fieldN (w : Word) : atN (fieldN w) = w &&& 0x000F#16 := by
  apply BitVec.eq_of_getLsbD_eq
  intro k hk
  rw [getLsbD_atN]
  interval_cases k <;> simp [fieldN]

theorem atNN_fieldNN (w : Word) : atNN (fieldNN w) = w &&& 0x00FF#16 := by
  apply BitVec.eq_of_getLsbD_eq
  intro k hk
  rw [getLsbD_atNN]
  interval_cases k <;> simp [fieldNN]

theorem atNNN_fieldNNN (w : Word) : atNNN (fieldNNN w) = w &&& 0x0FFF#16 := by
  apply BitVec.eq_of_getLsbD_eq
  intro k hk
  rw [getLsbD_atNNN]
  interval_cases k <;> simp [fieldNNN]

theorem OpcodeRow.selects_iff {r : OpcodeRow} {w : Word} : r.selects w = true ↔ w &&& r.mask = r.value :=
  beq_iff_eq

/-- Encoding what a row reads from a word it selects gives the word back: the row's mask and the fields it reads cover
all 16 bits. -/
abbrev OpcodeRow.Restores (r : OpcodeRow) : Prop := ∀ w, r.selects w = true → encode (r.make w) = w

theorem opcodeRows_restore : ∀ r ∈ opcodeRows, r.Restores := by
  simp only [opcodeRows, opcodeRowsLow, opcodeRowsAlu, opcodeRowsHigh, opcodeRowsMisc, List.cons_append,
    List.nil_append, List.forall_mem_cons, OpcodeRow.Restores, OpcodeRow.selects_iff, List.not_mem_nil, false_implies,
    implies_true, and_true]
  and_intros <;>
  · intro w h
    simp only [encode, atX_fieldX, atY_fieldY, atN_fieldN, atNN_fieldNN, atNNN_fieldNNN, ← h,
      ← BitVec.and_or_distrib_left]
    exact BitVec.and_allOnes

/-- Settles O2: a decoded word has a row, and that row restores it. -/
theorem encodeOfDecode : Obligations.EncodeOfDecode := by
  intro w i h
  obtain ⟨r, hr, rfl⟩ := Option.map_eq_some_iff.mp h
  exact opcodeRows_restore r (List.mem_of_find?_eq_some hr) w
    (List.find?_some (p := fun row : OpcodeRow => row.selects w) hr)

/-- Of rows that are apart, at most one selects a given word. -/
theorem length_le_one_of_apart {w : Word} {rows : List OpcodeRow} (hapart : rows.Pairwise OpcodeRow.Apart)
    (hselects : ∀ r ∈ rows, r.selects w = true) : rows.length ≤ 1 := by
  match rows with
  | [] => exact Nat.zero_le 1
  | [_] => exact Nat.le_refl 1
  | r :: r' :: _ =>
    have h : r.Apart r' := List.rel_of_pairwise_cons hapart List.mem_cons_self
    exact absurd (hselects r' (by simp)) (h.not_selects (hselects r (by simp)))

/-- Settles O4: the rows of R86 are apart, and so are those of them that select the word. -/
theorem atMostOneRowSelectsAWord : Obligations.AtMostOneRowSelectsAWord := by
  intro w
  exact length_le_one_of_apart (opcodeRows_pairwise_apart.filter _) fun r hr => (List.mem_filter.mp hr).2

/-- Settles O5: each word is the encoding of the instruction beside it. -/
theorem wordsWrittenOutDecode : Obligations.WordsWrittenOutDecode := by
  refine ⟨?_, ?_, ?_, ?_, ?_, ?_, ?_, ?_, ?_, ?_, ?_, ?_⟩ <;>
    exact Machine.decodeWord_of_eq_encode (rowOfEncoding _) rfl

/-- A decoder that answers has read a high byte and a low byte, and the word they make decodes. -/
theorem decode_ok {bytes rest : List Byte} {i : Instr} (h : decode bytes = .ok (i, rest)) :
    ∃ hi lo : Byte, bytes = hi :: lo :: rest ∧ decodeWord (hi ++ lo) = some i := by
  match bytes, h with
  | hi :: lo :: rest', h =>
    rw [decode] at h
    split at h
    · next hd =>
      cases h
      exact ⟨hi, lo, rfl, hd⟩
    · cases h
  | [_], h => cases h
  | [], h => cases h

/-- Settles O6: the two bytes' word is restored by encoding (`encodeOfDecode`), and its value is that of the bytes, high
byte first. -/
theorem decoderTakesTwoBytes : Obligations.DecoderTakesTwoBytes := by
  intro bytes rest i h
  obtain ⟨hi, lo, hbytes, hword⟩ := decode_ok h
  refine ⟨hi, lo, hbytes, ?_⟩
  rw [encodeOfDecode _ i hword, Machine.Byte.toNat_append]

/-! ### The words no row selects -/

/-- The family and the low `k` bits of a word, read together as a number. -/
theorem toNat_and_family_low (w : Word) {k : Nat} (hk : k ≤ 12) (hm : 2 ^ 12 * (2 ^ 4 - 1) + (2 ^ k - 1) < 2 ^ 16) :
    (w &&& BitVec.ofNat 16 (2 ^ 12 * (2 ^ 4 - 1) + (2 ^ k - 1))).toNat =
      2 ^ 12 * (w.toNat / 2 ^ 12) + w.toNat % 2 ^ k := by
  have hlow : 2 ^ k - 1 < 2 ^ 12 := by
    have := Nat.pow_le_pow_right (n := 2) (by decide) hk
    have := Nat.two_pow_pos k
    omega
  have hmod : w.toNat % 2 ^ k < 2 ^ 12 := by
    have := Nat.mod_lt w.toNat (Nat.two_pow_pos k)
    omega
  rw [BitVec.toNat_and, BitVec.toNat_ofNat, Nat.mod_eq_of_lt hm]
  apply Nat.eq_of_testBit_eq
  intro j
  rw [Nat.testBit_and, Nat.testBit_two_pow_mul_add _ hlow, Nat.testBit_two_pow_mul_add _ hmod]
  split
  · rw [Nat.testBit_two_pow_sub_one, Nat.testBit_mod_two_pow, Bool.and_comm]
  · rw [Nat.testBit_two_pow_sub_one, Nat.testBit_div_two_pow]
    by_cases hj : j < 16
    · simp [show j - 12 < 4 by omega, show j - 12 + 12 = j by omega]
    · have htop : w.toNat.testBit j = false :=
        Nat.testBit_lt_two_pow (w.isLt.trans_le (Nat.pow_le_pow_right (by decide) (by omega)))
      rw [Nat.sub_add_cancel (by omega), htop, Bool.false_and]

/-- A word that decodes to nothing is one that no row selects. -/
theorem decodeWord_eq_none_iff {w : Word} : decodeWord w = none ↔ ∀ r ∈ opcodeRows, w &&& r.mask ≠ r.value := by
  simp only [decodeWord, Option.map_eq_none_iff, List.find?_eq_none, OpcodeRow.selects_iff, ne_eq]

/-- A row that looks at the family and the low `k` bits compares both as numbers. -/
theorem and_family_low_eq_iff (w : Word) {v : Word} (k : Nat) (hk : k ≤ 12)
    (hm : 2 ^ 12 * (2 ^ 4 - 1) + (2 ^ k - 1) < 2 ^ 16) (hv : v.toNat % 2 ^ 12 = v.toNat % 2 ^ k) :
    w &&& BitVec.ofNat 16 (2 ^ 12 * (2 ^ 4 - 1) + (2 ^ k - 1)) = v ↔
      w.toNat / 2 ^ 12 = v.toNat / 2 ^ 12 ∧ w.toNat % 2 ^ k = v.toNat % 2 ^ k := by
  rw [BitVec.toNat_eq, toNat_and_family_low w hk hm]
  have : w.toNat % 2 ^ k < 2 ^ 12 :=
    (Nat.mod_lt _ (Nat.two_pow_pos k)).trans_le (Nat.pow_le_pow_right (by decide) hk)
  omega

theorem and_F000_eq_iff (w v : Word) (hv : v.toNat % 4096 = v.toNat % 1) :
    w &&& 0xF000#16 = v ↔ w.toNat / 4096 = v.toNat / 4096 :=
  (and_family_low_eq_iff w 0 (by decide) (by decide) hv).trans
    (and_iff_left ((Nat.mod_one _).trans (Nat.mod_one _).symm))

theorem and_F00F_eq_iff (w v : Word) (hv : v.toNat % 4096 = v.toNat % 16) :
    w &&& 0xF00F#16 = v ↔ w.toNat / 4096 = v.toNat / 4096 ∧ w.toNat % 16 = v.toNat % 16 :=
  and_family_low_eq_iff w 4 (by decide) (by decide) hv

theorem and_F0FF_eq_iff (w v : Word) (hv : v.toNat % 4096 = v.toNat % 256) :
    w &&& 0xF0FF#16 = v ↔ w.toNat / 4096 = v.toNat / 4096 ∧ w.toNat % 256 = v.toNat % 256 :=
  and_family_low_eq_iff w 8 (by decide) (by decide) hv

/-- Settles O3: no row selects the word (`decodeWord_eq_none_iff`), each row's comparison read as numbers, family by
family: a family whose rows leave no word over is in none of the four spaces. -/
theorem noOpWordsAreTheFourSpaces : Obligations.NoOpWordsAreTheFourSpaces := by
  intro w
  have hall : w &&& 0xFFFF#16 = w := BitVec.and_allOnes
  simp only [decodeWord_eq_none_iff, opcodeRows, opcodeRowsLow, opcodeRowsAlu, opcodeRowsHigh, opcodeRowsMisc,
    List.cons_append, List.nil_append, List.forall_mem_cons]
  simp (disch := decide) only [ne_eq, hall, and_F000_eq_iff, and_F00F_eq_iff, and_F0FF_eq_iff]
  simp only [BitVec.toNat_eq, BitVec.toNat_ofNat, Nat.reducePow, Nat.reduceMod, Nat.reduceDiv, List.mem_cons,
    List.not_mem_nil, or_false]
  have hfamily : w.toNat / 4096 < 16 := by have := w.isLt; omega
  have hnibble : w.toNat % 16 < 16 := Nat.mod_lt _ (by decide)
  have hexact : w.toNat / 4096 ≠ 0 → ¬ w.toNat = 224 ∧ ¬ w.toNat = 238 := by omega
  generalize w.toNat / 4096 = d, w.toNat % 16 = n at *
  by_cases hd : d = 8
  · subst hd
    simp [hexact]
    omega
  · interval_cases d <;> simp [hexact] at hd ⊢

end Sys2Proof
end

section
/-! Calls and returns, and the skips on two registers (40_flow.md R110, R112, R115, R116, R120). -/

namespace Sys2Proof.Machine

open Laws

variable {s t : State}

/-! ### The four answers of the stack instructions -/

theorem exec_ret_empty (h : s.sp.val = 0) : exec .ret s = .next (s.raiseFault .stackUnderflow) := by
  simp only [exec, execRet, State.pop_empty h]

theorem exec_ret_pop {v : Word} (h : s.pop = .ok (v, t)) : exec .ret s = .next (t.setPc v) := by
  simp only [exec, execRet, h]

theorem exec_call_full (nnn : Addr) (h : s.sp.val = 12) :
    exec (.call nnn) s = .next (s.raiseFault .stackOverflow) := by
  simp only [exec, execCall, State.push_full h]

theorem exec_call_push (nnn : Addr) (h : s.push s.pc = .ok t) :
    exec (.call nnn) s = .next (t.setPc (addrOperand nnn)) := by
  simp only [exec, execCall, h]

theorem Frame.pop_setPc {v : Word} (h : s.pop = .ok (v, t)) : Frame noRegs noCells [.stack] s (t.setPc v) :=
  (Frame.pop h).trans ((Frame.setPc t v).mono (fun _ => id) (fun _ => id) (by simp))

theorem Frame.push_setPc {v : Word} (h : s.push v = .ok t) (target : Word) :
    Frame noRegs noCells [.stack] s (t.setPc target) :=
  (Frame.push h).trans ((Frame.setPc t target).mono (fun _ => id) (fun _ => id) (by simp))

/-- A step whose instruction raises a fault leaves the state before the step with the fault register set (R232). -/
theorem step_of_raiseFault {i : Instr} {c : FaultCode} (hr : s.runState = .running) (hf : s.fault = .none)
    (hd : decodeWord s.fetchWord = some i) (hexec : exec i s.afterFetch = .next (s.afterFetch.raiseFault c))
    (hc : c ≠ .none) : step s = .next (s.raiseFault c) := by
  simp only [step_active hr hf, hd, hexec]
  rw [State.commit_of_fault s (t := s.afterFetch.raiseFault c) hc, State.raiseFault_fault]

/-- Settles O24: what a pop does (`State.pop_ok`), and its frame (`Frame.pop_setPc`). -/
theorem returnPopsIntoPc : Obligations.ReturnPopsIntoPc := by
  refine ⟨decodeWord_of_eq_encode RowOfEncoding.ret rfl, fun s hsp => ?_⟩
  obtain ⟨v, t, hpop⟩ := State.pop_some hsp
  obtain ⟨_, -, hv, hsp', ht⟩ := State.pop_ok hpop
  have hstack : t.stack = s.stack := by rw [ht]
  refine ⟨t.setPc v, exec_ret_pop hpop, fun _ => hv, hsp', hstack, ?_⟩
  exact Frame.pop_setPc hpop

/-- Settles O25: the pop's fault (`State.pop_empty`) is all the instruction does, and the step keeps it alone. -/
theorem returnOnEmptyStackFaults : Obligations.ReturnOnEmptyStackFaults := by
  intro s hsp
  refine ⟨exec_ret_empty hsp, fun hr hf hd => ?_⟩
  exact step_of_raiseFault hr hf hd (exec_ret_empty (s := s.afterFetch) hsp) (by decide)

/-- Settles O27: what a push does (`State.push_ok`), and its frame (`Frame.push_setPc`). -/
theorem callPushesAndJumps : Obligations.CallPushesAndJumps := by
  intro nnn
  refine ⟨decodeWord_of_eq_encode (RowOfEncoding.call nnn) rfl, fun s hsp => ?_⟩
  obtain ⟨t, hpush⟩ := State.push_room hsp s.pc
  obtain ⟨-, hsp', -, hstack⟩ := State.push_ok hpush
  refine ⟨t.setPc (addrOperand nnn), exec_call_push nnn hpush, toNat_addrOperand nnn, hsp', hstack, ?_⟩
  exact Frame.push_setPc hpush _

/-- Settles O28: the push's fault (`State.push_full`) is all the instruction does, and the step keeps it alone. -/
theorem callOnFullStackFaults : Obligations.CallOnFullStackFaults := by
  intro nnn s hsp
  refine ⟨exec_call_full nnn hsp, fun hr hf hd => ?_⟩
  exact step_of_raiseFault hr hf hd (exec_call_full (s := s.afterFetch) nnn hsp) (by decide)

/-- Settles O29: the call's entry is the one below its sp, which is where the return's pop reads. -/
theorem callThenReturnRestoresPc : Obligations.CallThenReturnRestoresPc := by
  intro nnn s hsp
  obtain ⟨-, hcall⟩ := callPushesAndJumps nnn
  obtain ⟨t, hexec, -, hsp', hentries, -⟩ := hcall s hsp
  refine ⟨t, hexec, fun t' hstack' hsp'' => ?_⟩
  have htop : t'.sp.val = s.sp.val + 1 := by rw [hsp'', hsp']
  obtain ⟨-, hret⟩ := returnPopsIntoPc
  obtain ⟨u, hexec', hpc, husp, -, -⟩ := hret t' (by omega)
  have hentry : t'.stack[t'.sp.val - 1]'(by omega) = s.pc := by
    simp only [htop, hstack', Nat.add_sub_cancel, hentries s.sp.val hsp, if_pos]
  exact ⟨u, hexec', (hpc (by omega)).trans hentry, Fin.ext (by omega)⟩

/-- Settles O31: both skips are `State.skipIf`, on the comparison and on its negation; n is not looked at. -/
theorem skipsOnRegisters : Obligations.SkipsOnRegisters := by
  intro x y n
  refine ⟨decodeWord_of_eq_encode (RowOfEncoding.skipEqReg x y n) rfl,
    decodeWord_of_eq_encode (RowOfEncoding.skipNeReg x y n) rfl, fun s => ⟨?_, ?_⟩⟩
  · refine ⟨s.skipIf (s.reg x == s.reg y), rfl, ?_, Frame.skipIf s _⟩
    rw [State.pc_skipIf]
    simp only [beq_iff_eq]
  · refine ⟨s.skipIf (s.reg x != s.reg y), rfl, ?_, Frame.skipIf s _⟩
    rw [State.pc_skipIf]
    simp only [bne_iff_ne, ite_not]

end Sys2Proof.Machine
end

section
/-! The random byte and the arithmetic on I (41_alu.md R152; 42_index_memory.md R172, R173), and a store over the next
instruction (20_memory.md R67). -/

namespace Sys2Proof.Machine

open Laws

/-- R152: the register write does not look at the source, nor the draw at the registers. -/
theorem Frame.consumeRandom_setReg (s : State) (x : RegIdx) (v : Byte) :
    Frame (· = x) noCells [.source] s (s.consumeRandom.setReg x v) :=
  Frame.trans ((Frame.consumeRandom s).mono (fun _ => False.elim) (fun _ => id) (fun _ => id))
    ((Frame.setReg _ x v).mono (fun _ => id) (fun _ => id) (by simp))

/-- Settles O40: the two ways a draw is held (`State.randomByte_queued`, `State.randomByte_free`). -/
theorem randomMasksOneConsumedDraw : Obligations.RandomMasksOneConsumedDraw := by
  intro x nn
  refine ⟨decodeWord_of_eq_encode (RowOfEncoding.random x nn) rfl, fun s => ?_⟩
  have hpc : s.consumeRandom.pc = s.pc := by rw [s.consumeRandom_eq]
  refine ⟨s.consumeRandom.setReg x (s.randomByte &&& nn), rfl, fun draw rest hqueue => ?_, fun hempty => ?_, hpc,
    Frame.consumeRandom_setReg s x _⟩
  · obtain ⟨hbyte, hconsume⟩ := State.randomByte_queued hqueue
    rw [hbyte, hconsume]
    refine ⟨fun k => ?_, rfl, rfl⟩
    rw [State.reg_setReg_same, BitVec.getLsbD_and]
  · obtain ⟨hbyte, hconsume⟩ := State.randomByte_free hempty
    rw [hbyte, hconsume]
    refine ⟨fun k => ?_, hempty, rfl⟩
    rw [State.reg_setReg_same, BitVec.getLsbD_and]

/-- R172: a byte added to a 16-bit word, mod 65536. -/
theorem toNat_add_zeroExtend_byte (w : Word) (b : Byte) :
    (w + b.zeroExtend 16).toNat = (w.toNat + b.toNat) % 65536 := by
  have hext : (b.zeroExtend 16).toNat = b.toNat := BitVec.toNat_setWidth_of_le (by decide)
  rw [BitVec.toNat_add, hext]

/-- R173: five times a byte fits in 16 bits. -/
theorem toNat_glyphAddr (b : Byte) : (glyphAddr b).toNat = b.toNat * 5 := by
  have hb : b.toNat < 256 := b.isLt
  rw [glyphAddr, BitVec.toNat_ofNat]
  omega

/-- Settles O42: one write of I each, of the sum mod 65536 and of the exact product. -/
theorem indexArithmetic : Obligations.IndexArithmetic := by
  intro x
  refine ⟨decodeWord_of_eq_encode (RowOfEncoding.addIndex x) rfl,
    decodeWord_of_eq_encode (RowOfEncoding.fontAddress x) rfl, fun s => ⟨?_, ?_⟩⟩
  · exact ⟨s.setIndex (s.index + (s.reg x).zeroExtend 16), rfl, toNat_add_zeroExtend_byte _ _, rfl,
      Frame.setIndex s _⟩
  · exact ⟨s.setIndex (glyphAddr (s.reg x)), rfl, toNat_glyphAddr _, rfl, Frame.setIndex s _⟩

/-- Two addresses of one cell read alike, with the same offset on both (R51). -/
theorem State.memRead_congr (s : State) {a b : Nat} (h : a % 4096 = b % 4096) (k : Nat) :
    s.memRead (a + k) = s.memRead (b + k) := by
  rw [← State.memRead_mod s (a + k), ← State.memRead_mod s (b + k), Nat.add_mod, h, ← Nat.add_mod]

/-- Settles O23: FX55 leaves reg[0] and reg[1] at I and I + 1 (`storeRegsCopiesRegistersOut`), which are the cells at pc
and pc + 1, and pc stays. -/
theorem storedInstructionIsFetchedNext : Obligations.StoredInstructionIsFetchedNext := by
  intro s x hs hx hpc
  obtain ⟨-, hstore⟩ := storeRegsCopiesRegistersOut x
  obtain ⟨t, hexec, hcells, hpc', -⟩ := hstore s hs
  refine ⟨t, hexec, ?_⟩
  have hcell (k : RegIdx) (hk : k.toNat ≤ x.toNat) : t.memRead (s.pc.toNat + k.toNat) = s.reg k :=
    (State.memRead_congr t hpc.symm k.toNat).trans (hcells k hk)
  have hhigh : t.memRead s.pc.toNat = s.reg 0x0#4 := hcell 0x0#4 (Nat.zero_le _)
  have hlow : t.memRead (s.pc.toNat + 1) = s.reg 0x1#4 := hcell 0x1#4 hx
  rw [State.fetchWord, State.memRead2_toNat, hpc', hhigh, hlow]

end Sys2Proof.Machine
end

section
/-! The keypad instructions (44_keypad_timer.md R210-R212). -/

namespace Sys2Proof.Machine

open Laws

variable {s : State}

/-- R210, R211: the key skips with an index that is one of a key. -/
theorem State.skipOnKey_of_le {x : RegIdx} (h : (s.reg x).toNat ≤ 15) (wanted : Bool) :
    s.skipOnKey x wanted = s.skipIf (s.keypad.getLsbD (s.reg x).toNat == wanted) :=
  if_neg (Nat.not_lt_of_le h)

/-- R210, R211, R232: the key skips with any other index. -/
theorem State.skipOnKey_of_gt {x : RegIdx} (h : (s.reg x).toNat > 15) (wanted : Bool) :
    s.skipOnKey x wanted = s.raiseFault .keyIndexRange :=
  if_pos h

theorem exec_skipIfKey_of_gt {x : RegIdx} (h : (s.reg x).toNat > 15) :
    exec (.skipIfKey x) s = .next (s.raiseFault .keyIndexRange) :=
  congrArg Host.Outcome.next (State.skipOnKey_of_gt h true)

theorem exec_skipIfNotKey_of_gt {x : RegIdx} (h : (s.reg x).toNat > 15) :
    exec (.skipIfNotKey x) s = .next (s.raiseFault .keyIndexRange) :=
  congrArg Host.Outcome.next (State.skipOnKey_of_gt h false)

/-- Settles O50: with an index of a key both are `State.skipIf` (`State.skipOnKey_of_le`), on the key's state and on its
negation. -/
theorem skipsOnKey : Obligations.SkipsOnKey := by
  intro x
  refine ⟨decodeWord_of_eq_encode (RowOfEncoding.skipIfKey x) rfl,
    decodeWord_of_eq_encode (RowOfEncoding.skipIfNotKey x) rfl, fun s hx => ⟨?_, ?_⟩⟩
  · refine ⟨_, congrArg Host.Outcome.next (State.skipOnKey_of_le hx true), ?_, Frame.skipIf s _⟩
    rw [State.pc_skipIf, beq_true]
  · refine ⟨_, congrArg Host.Outcome.next (State.skipOnKey_of_le hx false), ?_, Frame.skipIf s _⟩
    rw [State.pc_skipIf, beq_false]
    cases s.keypad.getLsbD (s.reg x).toNat <;> rfl

/-- Settles O51: the fault is all either key skip does (`State.skipOnKey_of_gt`), and the step keeps it alone. -/
theorem keyIndexOutOfRangeFaults : Obligations.KeyIndexOutOfRangeFaults := by
  intro x s hx
  refine ⟨exec_skipIfKey_of_gt hx, exec_skipIfNotKey_of_gt hx, ?_⟩
  rintro hr hf (hd | hd)
  · exact step_of_raiseFault hr hf hd (exec_skipIfKey_of_gt (s := s.afterFetch) hx) (by decide)
  · exact step_of_raiseFault hr hf hd (exec_skipIfNotKey_of_gt (s := s.afterFetch) hx) (by decide)

theorem exec_waitKey_none {x : RegIdx} (h : s.lowestKey = none) :
    exec (.waitKey x) s = .next (s.setPc (s.pc - 2#16)) := by
  simp only [exec, execWaitKey, h]

theorem exec_waitKey_some {x : RegIdx} {k : Nat} (h : s.lowestKey = some k) :
    exec (.waitKey x) s = .next (s.setReg x (BitVec.ofNat 8 k)) := by
  simp only [exec, execWaitKey, h]

/-- Settles O52: no key is found (`State.lowestKey_none`), and the one write is that of pc. -/
theorem waitKeyRefetchesWithNoKeyDown : Obligations.WaitKeyRefetchesWithNoKeyDown := by
  intro x
  refine ⟨decodeWord_of_eq_encode (RowOfEncoding.waitKey x) rfl, fun s hup => ?_⟩
  refine ⟨s.setPc (s.pc - 2#16), exec_waitKey_none (State.lowestKey_none.mpr hup), ?_, Frame.setPc s _⟩
  rw [State.setPc_pc, BitVec.toNat_sub, BitVec.toNat_ofNat]
  omega

/-- Settles O53: the key found is k (`State.lowestKey_some`), and the one write is that of reg[X]. -/
theorem waitKeyTakesTheLowestKey : Obligations.WaitKeyTakesTheLowestKey := by
  intro x s k hdown hlower
  have hk : k < 16 := BitVec.lt_of_getLsbD hdown
  have hlowest : s.lowestKey = some k := State.lowestKey_some.mpr ⟨hk, hdown, hlower⟩
  refine ⟨s.setReg x (BitVec.ofNat 8 k), exec_waitKey_some hlowest, ?_, rfl, Frame.setReg s x _⟩
  rw [State.reg_setReg_same, BitVec.toNat_ofNat]
  omega

end Sys2Proof.Machine
end

section
/-! What any instruction does, said once for all 34 (R22, R56, R231): the tables of writers, the fault table and the
canonical form of memory. -/

namespace Sys2Proof.Machine

/-- From `s` to `t` the instruction `i` has written only what the tables name, raised the fault of the table alone, and
kept memory in its canonical form. -/
structure Effect (i : Instr) (s t : State) : Prop where
  frame : Frame (writesReg i) (writesCell i s.index) (writesPart i) s t
  fault_eq : t.fault = if faultRaised s i = .none then s.fault else faultRaised s i
  keeps_inv : s.Inv → t.Inv

variable {i : Instr} {s t u : State}

/-- The effect of an instruction that raises no fault. -/
theorem Effect.of_frame (frame : Frame (writesReg i) (writesCell i s.index) (writesPart i) s t)
    (keeps_inv : s.Inv → t.Inv) (hnone : faultRaised s i = .none) (hkept : t.fault = s.fault) : Effect i s t where
  frame := frame
  fault_eq := by rw [if_pos hnone, hkept]
  keeps_inv := keeps_inv

/-- An instruction that raises a fault does nothing else. -/
theorem Effect.of_raiseFault {c : FaultCode} (hpart : .fault ∈ writesPart i) (hraised : faultRaised s i = c)
    (hc : c ≠ .none) : Effect i s (s.raiseFault c) where
  frame := (Frame.raiseFault s c).mono (fun _ => False.elim) (fun _ => False.elim) (by simpa using hpart)
  fault_eq := by rw [if_neg (hraised ▸ hc), hraised, State.raiseFault_fault]
  keeps_inv := id

theorem effect_ret (s : State) : ∃ t, exec .ret s = .next t ∧ Effect .ret s t := by
  by_cases hsp : s.sp.val = 0
  · exact ⟨_, exec_ret_empty hsp, .of_raiseFault (by decide) (if_pos hsp) (by decide)⟩
  · obtain ⟨v, t, hpop⟩ := State.pop_some (Nat.pos_of_ne_zero hsp)
    obtain ⟨-, -, -, -, ht⟩ := State.pop_ok hpop
    have hframe := Frame.pop_setPc hpop
    have hmem : t.mem = s.mem := by rw [ht]
    refine ⟨t.setPc v, exec_ret_pop hpop, .of_frame (hframe.mono (fun _ => id) (fun _ => id) (by simp [writesPart]))
      (fun hs => ?_) (if_neg hsp) (hframe.fault_kept (by decide))⟩
    rwa [State.Inv, State.setPc_mem, hmem]

theorem effect_call (nnn : Addr) (s : State) : ∃ t, exec (.call nnn) s = .next t ∧ Effect (.call nnn) s t := by
  by_cases hsp : s.sp.val = 12
  · exact ⟨_, exec_call_full nnn hsp, .of_raiseFault (by simp [writesPart]) (if_pos hsp) (by decide)⟩
  · obtain ⟨t, hpush⟩ := State.push_room (s := s) (by omega) s.pc
    obtain ⟨-, -, ht, -⟩ := State.push_ok hpush
    have hframe := Frame.push_setPc hpush (addrOperand nnn)
    have hmem : t.mem = s.mem := by rw [ht]
    refine ⟨t.setPc (addrOperand nnn), exec_call_push nnn hpush,
      .of_frame (hframe.mono (fun _ => id) (fun _ => id) (by simp [writesPart])) (fun hs => ?_) (if_neg hsp)
        (hframe.fault_kept (by decide))⟩
    rwa [State.Inv, State.setPc_mem, hmem]

theorem State.skipIf_keeps_inv (b : Bool) (hs : s.Inv) : (s.skipIf b).Inv := by
  rw [State.skipIf_eq]
  exact hs

theorem State.skipIf_fault (s : State) (b : Bool) : (s.skipIf b).fault = s.fault :=
  (Frame.skipIf s b).fault_kept (by decide)

/-- Both key skips: the fault of the table, or a write of pc alone. -/
theorem effect_skipOnKey {x : RegIdx} (wanted : Bool) (hregs : writesReg i = noRegs)
    (hcells : writesCell i s.index = noCells) (hparts : writesPart i = [.fault])
    (hraised : faultRaised s i = if (s.reg x).toNat > 15 then .keyIndexRange else .none) :
    Effect i s (s.skipOnKey x wanted) := by
  by_cases hx : (s.reg x).toNat > 15
  · rw [State.skipOnKey_of_gt hx]
    exact .of_raiseFault (by simp [hparts]) (hraised.trans (if_pos hx)) (by decide)
  · rw [State.skipOnKey_of_le (Nat.le_of_not_gt hx)]
    refine .of_frame ?_ (State.skipIf_keeps_inv _) (hraised.trans (if_neg hx)) (s.skipIf_fault _)
    rw [hregs, hcells, hparts]
    exact (Frame.skipIf s _).mono (fun _ => id) (fun _ => id) (by simp)

theorem effect_waitKey (x : RegIdx) (s : State) : ∃ t, exec (.waitKey x) s = .next t ∧ Effect (.waitKey x) s t := by
  cases hkey : s.lowestKey with
  | none =>
    have hframe : Frame (· = x) noCells [] s (s.setPc (s.pc - 2#16)) :=
      (Frame.setPc s _).mono (fun _ => False.elim) (fun _ => id) (fun _ => id)
    exact ⟨_, exec_waitKey_none hkey, .of_frame hframe id rfl rfl⟩
  | some k => exact ⟨_, exec_waitKey_some hkey, .of_frame (Frame.setReg s x _) id rfl rfl⟩

theorem State.consumeRandom_keeps_inv (hs : s.Inv) : s.consumeRandom.Inv := by
  rw [State.consumeRandom_eq]
  exact hs

theorem State.consumeRandom_fault (s : State) : s.consumeRandom.fault = s.fault :=
  (Frame.consumeRandom s).fault_kept (by decide)

theorem State.loadRegList_keeps_inv (n : Nat) (hs : s.Inv) : (s.loadRegList n).Inv := by
  rw [State.loadRegList_eq]
  exact hs

theorem State.loadRegList_fault (s : State) (n : Nat) : (s.loadRegList n).fault = s.fault := by
  rw [State.loadRegList_eq]

theorem Frame.setFb_setFlag (s : State) (fb : Framebuffer) (f : Byte) :
    Frame (· = flagReg) noCells [.fb] s ((s.setFb fb).setReg flagReg f) :=
  Frame.trans ((Frame.setFb s fb).mono (fun _ => False.elim) (fun _ => id) (fun _ => id))
    ((Frame.setReg _ flagReg f).mono (fun _ => id) (fun _ => id) (by simp))

theorem Frame.bcd (s : State) (x : RegIdx) :
    Frame noRegs (cellsFrom s.index.toNat 3) [] s (s.memWriteList (s.dataAddr 0) (bcdDigits (s.reg x))) :=
  Frame.memWriteList s (s.dataAddr 0) (bcdDigits (s.reg x))

theorem Frame.storeRegs (s : State) (x : RegIdx) :
    Frame noRegs (cellsFrom s.index.toNat (x.toNat + 1)) [] s
      (s.memWriteList (s.dataAddr 0) (s.regList (x.toNat + 1))) := by
  have h := Frame.memWriteList s (s.dataAddr 0) (s.regList (x.toNat + 1))
  rwa [State.length_regList] at h

theorem Frame.loadRegs (s : State) (x : RegIdx) :
    Frame (fun r => r.toNat ≤ x.toNat) noCells [] s (s.loadRegList (x.toNat + 1)) :=
  (Frame.loadRegList s x.isLt).mono (fun _ => Nat.le_of_lt_succ) (fun _ => id) (fun _ => id)

/-- Every instruction answers a next state, with the effect the tables give it. -/
theorem exec_answers (i : Instr) (s : State) : ∃ t, exec i s = .next t ∧ Effect i s t :=
  match i with
  | .clearScreen => ⟨_, rfl, .of_frame (Frame.setFb s _) id rfl rfl⟩
  | .ret => effect_ret s
  | .jump _ => ⟨_, rfl, .of_frame (Frame.setPc s _) id rfl rfl⟩
  | .call nnn => effect_call nnn s
  | .skipEqImm _ _ => ⟨_, rfl, .of_frame (Frame.skipIf s _) (State.skipIf_keeps_inv _) rfl (s.skipIf_fault _)⟩
  | .skipNeImm _ _ => ⟨_, rfl, .of_frame (Frame.skipIf s _) (State.skipIf_keeps_inv _) rfl (s.skipIf_fault _)⟩
  | .skipEqReg _ _ _ => ⟨_, rfl, .of_frame (Frame.skipIf s _) (State.skipIf_keeps_inv _) rfl (s.skipIf_fault _)⟩
  | .skipNeReg _ _ _ => ⟨_, rfl, .of_frame (Frame.skipIf s _) (State.skipIf_keeps_inv _) rfl (s.skipIf_fault _)⟩
  | .loadImm x _ => ⟨_, rfl, .of_frame (Frame.setReg s x _) id rfl rfl⟩
  | .addImm x _ => ⟨_, rfl, .of_frame (Frame.setReg s x _) id rfl rfl⟩
  | .move x _ => ⟨_, rfl, .of_frame (Frame.setReg s x _) id rfl rfl⟩
  | .orReg x _ => ⟨_, rfl, .of_frame (Frame.setReg s x _) id rfl rfl⟩
  | .andReg x _ => ⟨_, rfl, .of_frame (Frame.setReg s x _) id rfl rfl⟩
  | .xorReg x _ => ⟨_, rfl, .of_frame (Frame.setReg s x _) id rfl rfl⟩
  | .add x _ => ⟨_, rfl, .of_frame (Frame.writeResultAndFlag s x _ _) id rfl rfl⟩
  | .sub x _ => ⟨_, rfl, .of_frame (Frame.writeResultAndFlag s x _ _) id rfl rfl⟩
  | .shiftRight x _ => ⟨_, rfl, .of_frame (Frame.writeResultAndFlag s x _ _) id rfl rfl⟩
  | .subReverse x _ => ⟨_, rfl, .of_frame (Frame.writeResultAndFlag s x _ _) id rfl rfl⟩
  | .shiftLeft x _ => ⟨_, rfl, .of_frame (Frame.writeResultAndFlag s x _ _) id rfl rfl⟩
  | .loadIndex _ => ⟨_, rfl, .of_frame (Frame.setIndex s _) id rfl rfl⟩
  | .jumpOffset _ => ⟨_, rfl, .of_frame (Frame.setPc s _) id rfl rfl⟩
  | .random x _ => ⟨_, rfl,
      .of_frame (Frame.consumeRandom_setReg s x _) State.consumeRandom_keeps_inv rfl s.consumeRandom_fault⟩
  | .draw _ _ _ => ⟨_, rfl, .of_frame (Frame.setFb_setFlag s _ _) id rfl rfl⟩
  | .skipIfKey _ => ⟨_, rfl, effect_skipOnKey true rfl rfl rfl rfl⟩
  | .skipIfNotKey _ => ⟨_, rfl, effect_skipOnKey false rfl rfl rfl rfl⟩
  | .readDelay x => ⟨_, rfl, .of_frame (Frame.setReg s x _) id rfl rfl⟩
  | .waitKey x => effect_waitKey x s
  | .writeDelay _ => ⟨_, rfl, .of_frame (Frame.setDelay s _) id rfl rfl⟩
  | .writeSound _ => ⟨_, rfl, .of_frame (Frame.setSound s _) id rfl rfl⟩
  | .addIndex _ => ⟨_, rfl, .of_frame (Frame.setIndex s _) id rfl rfl⟩
  | .fontAddress _ => ⟨_, rfl, .of_frame (Frame.setIndex s _) id rfl rfl⟩
  | .bcd x => ⟨_, rfl,
      .of_frame (Frame.bcd s x) (State.memWriteList_keeps_inv · _ _) rfl (s.memWriteList_fault _ _)⟩
  | .storeRegs x => ⟨_, rfl,
      .of_frame (Frame.storeRegs s x) (State.memWriteList_keeps_inv · _ _) rfl (s.memWriteList_fault _ _)⟩
  | .loadRegs x => ⟨_, rfl,
      .of_frame (Frame.loadRegs s x) (State.loadRegList_keeps_inv _) rfl (s.loadRegList_fault _)⟩

/-- The effect of whatever an instruction answered. -/
theorem effect_of_exec (h : exec i s = .next t) : Effect i s t := by
  obtain ⟨t', h', heffect⟩ := exec_answers i s
  rw [h] at h'
  cases h'
  exact heffect

end Sys2Proof.Machine
end

section
/-! What a step does (30_encoding.md R84-R94; 60_exceptions.md R230-R233). -/

namespace Sys2Proof.Machine

variable {s t u : State} {i : Instr}

/-! ### The answer of a step -/

/-- Settles O8: the open gate's branch of `step` (`step_active`), with the fetched word and the rollback written out. -/
theorem stepRunsTheDecodedInstruction : Obligations.StepRunsTheDecodedInstruction := by
  intro s i hr hf hdecode
  obtain ⟨hi, lo, hbytes, hword⟩ := decode_ok hdecode
  obtain ⟨hhi, hlo⟩ : s.memRead s.pc.toNat = hi ∧ s.memRead (s.pc.toNat + 1) = lo := by simpa using hbytes
  have hd : decodeWord s.fetchWord = some i := by rw [State.fetchWord, State.memRead2, hhi, hlo, hword]
  simp only [step_active hr hf, hd]
  rfl

/-- Settles O10: the closed gate of `step_gated`. -/
theorem gatedStepChangesNothing : Obligations.GatedStepChangesNothing := fun _ hgate => step_gated hgate

/-- With the gate open, a word that decodes to nothing leaves the state after the fetch. -/
theorem step_noOp (hr : s.runState = .running) (hf : s.fault = .none) (hd : decodeWord s.fetchWord = none) :
    step s = .next s.afterFetch := by
  simp only [step_active hr hf, hd]

/-- P, the pc after the fetch (R89). -/
theorem State.toNat_afterFetch_pc (s : State) : s.afterFetch.pc.toNat = (s.pc.toNat + 2) % 65536 :=
  BitVec.toNat_add s.pc 2#16

/-- Settles O9: the fetch writes pc and IR alone (`Frame.afterFetch`). -/
theorem noOpWordOnlyAdvancesPc : Obligations.NoOpWordOnlyAdvancesPc := fun s hr hf hd =>
  ⟨s.afterFetch, step_noOp hr hf hd, s.toNat_afterFetch_pc, rfl, Frame.afterFetch s⟩

/-- With the gate open, an instruction's step is what it did after the fetch, or its rollback. -/
theorem step_instr (hr : s.runState = .running) (hf : s.fault = .none) (hd : decodeWord s.fetchWord = some i)
    (hexec : exec i s.afterFetch = .next u) : step s = .next (s.commit u) := by
  simp only [step_active hr hf, hd, hexec]

/-- Settles O11: the gate closed, a no-op word, or an instruction, which answers a state by `exec_answers`. -/
theorem everyStepAnswersANextState : Obligations.EveryStepAnswersANextState := by
  intro s
  by_cases hgate : s.runState ≠ .running ∨ s.fault ≠ .none
  · exact ⟨s, step_gated hgate⟩
  · obtain ⟨hr, hf⟩ : s.runState = .running ∧ s.fault = .none := by simpa using hgate
    cases hd : decodeWord s.fetchWord with
    | none => exact ⟨_, step_noOp hr hf hd⟩
    | some i =>
      obtain ⟨u, hexec, -⟩ := exec_answers i s.afterFetch
      exact ⟨_, step_instr hr hf hd hexec⟩

/-! ### What a step keeps -/

/-- What a step with the gate open does, the instruction's effect included. -/
theorem step_effect (hr : s.runState = .running) (hf : s.fault = .none) (h : step s = .next t) :
    (decodeWord s.fetchWord = none ∧ t = s.afterFetch) ∨
      ∃ i u, decodeWord s.fetchWord = some i ∧ exec i s.afterFetch = .next u ∧ Effect i s.afterFetch u ∧
        t = s.commit u := by
  rcases step_cases h with ⟨hgate, -⟩ | ⟨-, -, hnoop | ⟨i, u, hd, hexec, ht⟩⟩
  · rcases hgate with hgate | hgate
    · exact absurd hr hgate
    · exact absurd hf hgate
  · exact .inl hnoop
  · exact .inr ⟨i, u, hd, hexec, effect_of_exec hexec, ht⟩

/-- The rollback keeps the fault register the instruction left (R232). -/
theorem State.commit_fault (s u : State) : (s.commit u).fault = u.fault := by
  by_cases hu : u.fault = .none
  · rw [State.commit_of_none s hu]
  · rw [State.commit_of_fault s hu, State.raiseFault_fault]

/-- A step of an instruction writes what the tables name for the instruction, beside IR and pc: with no fault, the fetch
and the instruction; with one, the fault register alone, which the tables then name. -/
theorem commit_frame (hf : s.fault = .none) (h : Effect i s.afterFetch u) :
    Frame (writesReg i) (writesCell i s.index) (.ir :: writesPart i) s (s.commit u) := by
  by_cases hu : u.fault = .none
  · rw [State.commit_of_none s hu]
    exact ((Frame.afterFetch s).mono (fun _ => False.elim) (fun _ => False.elim) (by simp)).trans
      (h.frame.mono (fun _ => id) (fun _ => id) (fun _ => List.mem_cons_of_mem _))
  · rw [State.commit_of_fault s hu]
    have hpart : .fault ∈ writesPart i := by
      by_contra hnot
      exact hu ((h.frame.fault_kept hnot).trans hf)
    exact (Frame.raiseFault s u.fault).mono (fun _ => False.elim) (fun _ => False.elim) (by simp [hpart])

/-- Settles O14: the fetch's frame for a no-op word, `commit_frame` for an instruction. -/
theorem stepWritesOnlyWhatTheTablesName : Obligations.StepWritesOnlyWhatTheTablesName := by
  intro s t hr hf h
  rcases step_effect hr hf h with ⟨hd, rfl⟩ | ⟨i, u, hd, -, heffect, rfl⟩
  · rw [hd]
    exact Frame.afterFetch s
  · rw [hd]
    exact commit_frame hf heffect

/-- Settles O15: every frame keeps both, and a gated step keeps everything. -/
theorem stepNeverChangesRunStateOrKeypad : Obligations.StepNeverChangesRunStateOrKeypad := by
  intro s t h
  rcases step_cases h with ⟨-, rfl⟩ | ⟨-, hf, ⟨-, rfl⟩ | ⟨i, u, -, hexec, rfl⟩⟩
  · exact ⟨rfl, rfl⟩
  · exact ⟨rfl, rfl⟩
  · have hframe := commit_frame hf (effect_of_exec hexec)
    exact ⟨hframe.runState_kept, hframe.keypad_kept⟩

/-- Settles O16: the fetch of a no-op word raises no fault, and the rollback leaves the fault register alone changed. -/
theorem faultIsPrecise : Obligations.FaultIsPrecise := by
  intro s t hr hf h hfault
  rcases step_effect hr hf h with ⟨-, rfl⟩ | ⟨i, u, -, -, -, rfl⟩
  · exact absurd hf hfault
  · rw [State.commit_fault] at hfault ⊢
    exact State.commit_of_fault s hfault

/-- The fetch changes nothing the fault table looks at. -/
theorem faultRaised_afterFetch (s : State) (i : Instr) : faultRaised s.afterFetch i = faultRaised s i := by
  cases i <;> rfl

/-- Settles O17: the fault of an instruction's effect, from a state without one. -/
theorem faultsHaveExactlyTheirCauses : Obligations.FaultsHaveExactlyTheirCauses := by
  intro s t hr hf h
  rcases step_effect hr hf h with ⟨hd, rfl⟩ | ⟨i, u, hd, -, heffect, rfl⟩
  · rw [hd]
    exact hf
  · simp only [hd, State.commit_fault, heffect.fault_eq, faultRaised_afterFetch, State.afterFetch_fault, hf]
    split
    · next hnone => exact hnone.symm
    · rfl

/-! ### Memory's canonical form -/

/-- The rollback keeps the form of the state before the step, and its absence that of the instruction's state. -/
theorem State.commit_keeps_inv (hs : s.Inv) (hu : u.Inv) : (s.commit u).Inv := by
  by_cases hfault : u.fault = .none
  · rwa [State.commit_of_none s hfault]
  · rwa [State.commit_of_fault s hfault]

/-- Settles O20: the fetch writes no memory, and every instruction's effect keeps the form. -/
theorem stepKeepsMemoryCanonical : Obligations.StepKeepsMemoryCanonical := by
  intro s t hs h
  rcases step_cases h with ⟨-, rfl⟩ | ⟨-, -, ⟨-, rfl⟩ | ⟨i, u, -, hexec, rfl⟩⟩
  · exact hs
  · exact hs
  · exact State.commit_keeps_inv hs ((effect_of_exec hexec).keeps_inv hs)

/-- Settles O19: a read after a write, to the same cell and to another one, and the write's frame. -/
theorem writeChangesExactlyOneCell : Obligations.WriteChangesExactlyOneCell := by
  intro s a v hs
  refine ⟨fun b => ?_, rfl, Frame.memWrite s a v⟩
  by_cases h : b % 4096 = a % 4096
  · rw [if_pos h, State.memRead_memWrite_same hs v h]
  · rw [if_neg h, State.memRead_memWrite_other s v h]

/-! ### pc -/

/-- The top entry, read from the list of the entries in use. -/
theorem State.topEntry_eq (s : State) (h0 : s.sp.val - 1 < 12) (hsp : 0 < s.sp.val) :
    s.topEntry = s.stack[s.sp.val - 1].toNat := by
  have hget : s.stack.toList[s.sp.val - 1]? = some s.stack[s.sp.val - 1] := by
    rw [Vector.getElem?_toList, Vector.getElem?_eq_getElem h0]
  rw [State.topEntry, List.getLastD_eq_getLast?, List.getLast?_take, if_neg (Nat.ne_of_gt hsp), hget]
  rfl

/-- All 16 keys are up exactly when the port reads 0. -/
theorem State.lowestKey_eq_none_iff (s : State) : s.lowestKey = none ↔ s.keypad = 0#16 := by
  rw [State.lowestKey_none]
  constructor
  · exact fun h => BitVec.eq_of_getLsbD_eq fun k hk => (h k hk).trans BitVec.getLsbD_zero.symm
  · intro h k _
    rw [State.keyDown, h, BitVec.getLsbD_zero]

theorem pc_ret_afterFetch (h : exec .ret s.afterFetch = .next u) (hu : u.fault = .none) : u.pc.toNat = s.topEntry := by
  by_cases hsp : s.sp.val = 0
  · rw [exec_ret_empty (s := s.afterFetch) hsp] at h
    cases h
    cases hu
  · obtain ⟨v, t, hpop⟩ := State.pop_some (s := s.afterFetch) (Nat.pos_of_ne_zero hsp)
    rw [exec_ret_pop hpop] at h
    cases h
    obtain ⟨h0, hpos, hv, -, -⟩ := State.pop_ok hpop
    rw [State.topEntry_eq s h0 hpos, State.setPc_pc, hv]
    rfl

theorem pc_call_afterFetch {nnn : Addr} (h : exec (.call nnn) s.afterFetch = .next u) (hu : u.fault = .none) :
    u.pc.toNat = nnn.toNat := by
  by_cases hsp : s.sp.val = 12
  · rw [exec_call_full (s := s.afterFetch) nnn hsp] at h
    cases h
    cases hu
  · obtain ⟨t, hpush⟩ := State.push_room (s := s.afterFetch) (Nat.lt_of_le_of_ne (Nat.le_of_lt_succ s.sp.isLt) hsp)
      s.afterFetch.pc
    rw [exec_call_push nnn hpush] at h
    cases h
    exact toNat_addrOperand nnn

theorem pc_waitKey_afterFetch {x : RegIdx} (h : exec (.waitKey x) s.afterFetch = .next u) :
    u.pc.toNat = if s.keypad = 0#16 then s.pc.toNat else (s.pc.toNat + 2) % 65536 := by
  cases hkey : s.afterFetch.lowestKey with
  | none =>
    rw [exec_waitKey_none hkey] at h
    cases h
    have hup : s.keypad = 0#16 := (State.lowestKey_eq_none_iff s.afterFetch).mp hkey
    rw [if_pos hup, State.setPc_pc, State.afterFetch_pc, BitVec.add_sub_cancel]
  | some k =>
    rw [exec_waitKey_some hkey] at h
    cases h
    have hdown : ¬ s.keypad = 0#16 := fun hup =>
      Option.some_ne_none k (hkey.symm.trans ((State.lowestKey_eq_none_iff s.afterFetch).mpr hup))
    rw [if_neg hdown]
    exact s.toNat_afterFetch_pc

theorem pc_skipOnKey_afterFetch {x : RegIdx} {wanted : Bool} (hu : (s.afterFetch.skipOnKey x wanted).fault = .none) :
    (s.afterFetch.skipOnKey x wanted).pc.toNat =
      (s.pc.toNat + if s.keypad.getLsbD (s.reg x).toNat = wanted then 4 else 2) % 65536 := by
  by_cases hx : (s.reg x).toNat > 15
  · rw [State.skipOnKey_of_gt (s := s.afterFetch) hx] at hu
    cases hu
  · rw [State.skipOnKey_of_le (s := s.afterFetch) (Nat.le_of_not_gt hx), State.pc_skipIf_afterFetch]
    simp only [beq_iff_eq, State.afterFetch_keypad, State.afterFetch_reg]

/-- R25, R26: pc after an instruction that runs after the fetch and raises no fault. -/
theorem pc_of_exec_afterFetch (h : exec i s.afterFetch = .next u) (hu : u.fault = .none) :
    u.pc.toNat = pcAfter s (some i) := by
  cases i with
  | ret => exact pc_ret_afterFetch h hu
  | call nnn => exact pc_call_afterFetch h hu
  | waitKey x => exact pc_waitKey_afterFetch h
  | jump nnn => cases h; exact toNat_addrOperand nnn
  | jumpOffset nnn => cases h; exact s.afterFetch.toNat_offsetTarget nnn
  | skipEqImm x nn => cases h; simp [State.pc_skipIf_afterFetch, pcAfter]
  | skipNeImm x nn => cases h; simp [State.pc_skipIf_afterFetch, pcAfter]
  | skipEqReg x y n => cases h; simp [State.pc_skipIf_afterFetch, pcAfter]
  | skipNeReg x y n => cases h; simp [State.pc_skipIf_afterFetch, pcAfter]
  | skipIfKey x => cases h; exact pc_skipOnKey_afterFetch hu
  | skipIfNotKey x =>
    cases h
    rw [pc_skipOnKey_afterFetch hu, pcAfter]
    cases s.keypad.getLsbD (s.reg x).toNat <;> rfl
  | random x nn =>
    cases h
    rw [State.setReg_pc, State.consumeRandom_eq]
    exact s.toNat_afterFetch_pc
  | bcd x =>
    cases h
    rw [State.memWriteList_pc]
    exact s.toNat_afterFetch_pc
  | storeRegs x =>
    cases h
    rw [State.memWriteList_pc]
    exact s.toNat_afterFetch_pc
  | loadRegs x =>
    cases h
    rw [State.loadRegList_eq]
    exact s.toNat_afterFetch_pc
  | _ => cases h; exact s.toNat_afterFetch_pc

/-- Settles O13: a no-op word leaves P, an instruction without a fault what `pc_of_exec_afterFetch` says, and the
rollback of one with a fault leaves A. -/
theorem pcAfterEveryStep : Obligations.PcAfterEveryStep := by
  intro s t hr hf h
  rcases step_effect hr hf h with ⟨hd, rfl⟩ | ⟨i, u, hd, hexec, -, rfl⟩
  · rw [hd, if_pos (show s.afterFetch.fault = .none from hf)]
    exact s.toNat_afterFetch_pc
  · by_cases hu : u.fault = .none
    · rw [State.commit_of_none s hu, if_pos hu, hd]
      exact pc_of_exec_afterFetch hexec hu
    · rw [State.commit_of_fault s hu, State.raiseFault_fault, if_neg hu, State.raiseFault_pc]

end Sys2Proof.Machine
end

section
/-! The host's commands (60_exceptions.md R233, R239-R253; 70_reset_and_hazards.md R270-R275): faults are sticky, the
run state, LOAD, RESET, and memory's canonical form along every schedule. -/

namespace Sys2Proof.Machine

variable {s : State}

/-! ### What each command keeps -/

/-- R241: with the gate closed a tick changes nothing. -/
theorem tick_gated (h : s.runState ≠ .running ∨ s.fault ≠ .none) : tick s = s := by
  have hgate : ¬ s.active = true := fun ha => by
    obtain ⟨hr, hf⟩ := State.active_iff.mp ha
    exact h.elim (fun hn => hn hr) (fun hn => hn hf)
  exact if_neg hgate

/-- TOGGLE_PAUSE writes the run state alone (R249). -/
theorem togglePause_eq (s : State) :
    togglePause s = { s with runState := match s.runState with
      | .running => .paused
      | .paused => .running
      | .halted => .halted } := by
  cases h : s.runState with
  | running => simp only [togglePause, h]
  | paused => simp only [togglePause, h]
  | halted =>
    simp only [togglePause, h]
    rw [← h]

/-- LOAD writes memory alone, a program that is too large included (R273, R274). -/
theorem load_eq (bytes : List Byte) (s : State) : (load bytes s).2 = { s with mem := (load bytes s).2.mem } := by
  by_cases hfits : bytes.length ≤ Config.maxProgram
  · rw [load_of_length_le s hfits]
    exact s.memWriteList_eq _ bytes
  · rw [load_of_length_gt s (Nat.lt_of_not_le hfits)]

theorem stepState_of_step {t : State} (h : step s = .next t) : stepState s = t := by
  rw [stepState, h]

/-- With the gate closed STEP leaves its inputs behind and changes nothing else. -/
theorem stepWith_gated (key : BitVec 16) (rnd : Byte) (h : s.runState ≠ .running ∨ s.fault ≠ .none) :
    stepWith key rnd s = { s with keypad := key, rndQueue := [rnd] } :=
  stepState_of_step (step_gated (s := { s with keypad := key, rndQueue := [rnd] }) h)

/-- With the gate closed every command but RESET keeps the fault register, and keeps a Halted machine Halted. -/
theorem perform_gated (font : FontData) (hgate : s.runState ≠ .running ∨ s.fault ≠ .none) {c : Command}
    (hc : c ≠ .reset) :
    (perform font c s).fault = s.fault ∧ (s.runState = .halted → (perform font c s).runState = .halted) := by
  cases c with
  | reset => exact absurd rfl hc
  | load bytes =>
    rw [perform, load_eq]
    exact ⟨rfl, id⟩
  | step key rnd =>
    rw [perform, stepWith_gated key rnd hgate]
    exact ⟨rfl, id⟩
  | tick =>
    rw [perform, tick_gated hgate]
    exact ⟨rfl, id⟩
  | togglePause =>
    rw [perform, togglePause_eq]
    exact ⟨rfl, fun hh => by rw [hh]⟩
  | quit => exact ⟨rfl, fun _ => rfl⟩

/-- Settles O18: a fault closes the gate (`perform_gated`), and `State.reset` has none. -/
theorem faultIsStickyUntilReset : Obligations.FaultIsStickyUntilReset := by
  intro font s hf
  refine ⟨step_gated (.inr hf), tick_gated (.inr hf), fun c hc => (perform_gated font (.inr hf) hc).1, ?_⟩
  rw [perform, hostReset, State.resetWith_eq]
  rfl

/-- Settles O56: one lemma for each clause, and QUIT by its definition; a Halted machine's gate is closed. -/
theorem runStateMachine : Obligations.RunStateMachine := by
  intro font s
  refine ⟨togglePause_eq s, rfl, tick_gated, fun hh c hc => ?_⟩
  have hgate : s.runState ≠ .running ∨ s.fault ≠ .none := .inl (by rw [hh]; decide)
  exact (perform_gated font hgate hc).2 hh

/-! ### LOAD -/

/-- Settles O57: the covered cells hold the list's bytes, and writing a list changes memory alone. -/
theorem loadCopiesTheProgram : Obligations.LoadCopiesTheProgram := by
  intro s bytes hs hfits
  rw [load_of_length_le s hfits]
  refine ⟨rfl, fun k hk => ?_, s.memWriteList_pc _ bytes, Frame.memWriteList s _ bytes⟩
  exact State.memRead_memWriteList_covered hs 0x200 bytes (by omega) k hk

/-! ### Memory's canonical form -/

/-- Settles O22: nothing is listed after a reset with the default table, and writing any other table keeps the form. -/
theorem resetMemoryIsCanonical : Obligations.ResetMemoryIsCanonical :=
  ⟨rfl, fun font => State.memWriteList_keeps_inv (s := State.reset) rfl 0x000 font.toList⟩

theorem load_keeps_inv (bytes : List Byte) (hs : s.Inv) : (load bytes s).2.Inv := by
  by_cases hfits : bytes.length ≤ Config.maxProgram
  · rw [load_of_length_le s hfits]
    exact State.memWriteList_keeps_inv hs _ bytes
  · rwa [load_of_length_gt s (Nat.lt_of_not_le hfits)]

theorem stepWith_keeps_inv (key : BitVec 16) (rnd : Byte) (hs : s.Inv) : (stepWith key rnd s).Inv := by
  have hs' : State.Inv { s with keypad := key, rndQueue := [rnd] } := hs
  obtain ⟨t, h⟩ := everyStepAnswersANextState { s with keypad := key, rndQueue := [rnd] }
  rw [stepWith, stepState_of_step h]
  exact stepKeepsMemoryCanonical _ t hs' h

theorem tick_keeps_inv (hs : s.Inv) : (tick s).Inv := by
  unfold tick
  split <;> exact hs

/-- Every command keeps memory in its canonical form. -/
theorem perform_keeps_inv (font : FontData) (c : Command) (hs : s.Inv) : (perform font c s).Inv := by
  cases c with
  | reset => exact resetMemoryIsCanonical.2 font
  | load bytes => exact load_keeps_inv bytes hs
  | step key rnd => exact stepWith_keeps_inv key rnd hs
  | tick => exact tick_keeps_inv hs
  | togglePause =>
    rw [perform, togglePause_eq]
    exact hs
  | quit => exact hs

/-- Settles O21, by induction on the schedule: each command keeps the form for the rest (`perform_keeps_inv`). -/
theorem schedulesKeepMemoryCanonical : Obligations.SchedulesKeepMemoryCanonical := by
  intro font commands
  induction commands with
  | nil => exact fun s hs => hs
  | cons c cs ih => exact fun s hs => ih (perform font c s) (perform_keeps_inv font c hs)

/-! ### RESET -/

/-- Writing to unlisted cells what they read as lists nothing. -/
theorem State.memWriteList_unlisted (hmem : s.mem = []) (a : Nat) (vs : List Byte)
    (h : ∀ k (hk : k < vs.length), vs[k] = Memory.unlisted ((a + k) % 4096)) : s.memWriteList a vs = s := by
  induction vs generalizing a with
  | nil => rfl
  | cons v vs ih =>
    have hv : v = Memory.unlisted (a % 4096) := h 0 (Nat.zero_lt_succ _)
    have hwrite : s.memWrite a v = s := by
      rw [State.memWrite, hmem, Memory.write, if_pos hv, ← hmem]
    rw [State.memWriteList, hwrite]
    refine ih (a + 1) fun k hk => ?_
    rw [Nat.add_assoc, Nat.add_comm 1 k]
    exact h (k + 1) (Nat.succ_lt_succ hk)

/-- The default table is what unlisted cells read as, so that resetting with it lists nothing. -/
theorem State.resetWith_defaultFont : State.resetWith defaultFont = State.reset := by
  refine State.memWriteList_unlisted rfl 0x000 _ fun k hk => ?_
  have hlen : k < 80 := by simpa using hk
  rw [Nat.zero_add, Nat.mod_eq_of_lt (by omega), Memory.unlisted]
  exact (List.getElem_eq_getD (h := hk) 0x00#8)

/-- Above the font an unlisted cell is zero. -/
theorem Memory.unlisted_of_ge {a : Nat} (h : 80 ≤ a) : Memory.unlisted a = 0x00#8 :=
  List.getD_eq_default _ _ h

/-- Settles O59: RESET is the reset state with the table's memory (`State.resetWith_eq`): a cell of the font, a cell
above it, and every other part by its value in `State.reset`. -/
theorem resetValues : Obligations.ResetValues := by
  intro font s
  have hreset : perform font .reset s =
      { State.reset with mem := (State.resetWith font).mem, rndQueue := s.rndQueue, rndDrawn := s.rndDrawn } := by
    rw [perform, hostReset, State.resetWith_eq]
  have hread (a : Nat) : (perform font .reset s).memRead a = (State.resetWith font).memRead a := rfl
  refine ⟨fun r => ?_, fun a h => ?_, fun a h h' => ?_, ?_⟩
  · rw [hreset]
    exact Vector.getElem_replicate _
  · rw [hread, State.memRead_resetWith_font font h]
  · rw [hread, State.memRead_resetWith_other font (by omega)]
    exact (congrArg Memory.unlisted (Nat.mod_eq_of_lt h')).trans (Memory.unlisted_of_ge h)
  · rw [hreset]
    refine ⟨rfl, rfl, fun k _ => Vector.getElem_replicate _, rfl, rfl, rfl, fun cx cy _ _ => ?_, rfl, rfl, rfl, rfl,
      State.resetWith_defaultFont, ?_⟩
    · exact Framebuffer.cell_clear cx cy
    · rw [perform, hostReset, State.resetWith_defaultFont]

end Sys2Proof.Machine
end

section
/-! Drawing and the framebuffer output (43_display.md R192-R196; 10_state.md R33; 60_exceptions.md R246). -/

namespace Sys2Proof.Machine

open Laws

variable {s s' : State}

/-! ### DXYN -/

/-- The bit that DXYN lays over a cell is that of the drawing unit's sprite at the latched coordinates. -/
theorem State.spriteOver_eq (s : State) (x y : RegIdx) (n : Nibble) (cx cy : Nat) :
    s.spriteOver x y n cx cy = spriteBit (fun r => s.memRead (s.dataAddr r)) ((s.reg x).toNat % 64)
      ((s.reg y).toNat % 32) n.toNat cx cy := by
  have hgrid (x0 y0 : Nat) : (x0 ≤ cx ∧ cx < x0 + 8 ∧ cx < 64 ∧ y0 ≤ cy ∧ cy < y0 + n.toNat ∧ cy < 32) ↔
      (y0 ≤ cy ∧ cy < y0 + n.toNat ∧ cy < 32 ∧ x0 ≤ cx ∧ cx < x0 + 8 ∧ cx < 64) := by omega
  simp only [State.spriteOver, spriteBit, State.dataAddr, hgrid]

/-- A sprite bit lies over a cell of the grid only. -/
theorem State.spriteOver_in_grid {x y : RegIdx} {n : Nibble} {cx cy : Nat} (h : s.spriteOver x y n cx cy = true) :
    cx < 64 ∧ cy < 32 := by
  rw [State.spriteOver, Bool.and_eq_true, decide_eq_true_eq] at h
  obtain ⟨⟨-, -, hx, -, -, hy⟩, -⟩ := h
  exact ⟨hx, hy⟩

/-- The bits over the cells hang on the latched coordinates, I and the sprite's bytes alone. -/
theorem State.spriteOver_congr {x y : RegIdx} {n : Nibble} (hindex : s'.index = s.index)
    (hx : (s'.reg x).toNat % 64 = (s.reg x).toNat % 64) (hy : (s'.reg y).toNat % 32 = (s.reg y).toNat % 32)
    (hbytes : ∀ r, r < n.toNat → s'.memRead (s.index.toNat + r) = s.memRead (s.index.toNat + r)) (cx cy : Nat) :
    s'.spriteOver x y n cx cy = s.spriteOver x y n cx cy := by
  simp only [State.spriteOver, hindex, hx, hy]
  by_cases hrow : (s.reg y).toNat % 32 ≤ cy ∧ cy < (s.reg y).toNat % 32 + n.toNat
  · rw [hbytes _ (by omega)]
  · rw [decide_eq_false (by tauto), Bool.false_and, Bool.false_and]

theorem flagByte_eq_one_iff {b : Bool} : flagByte b = 0x01#8 ↔ b = true := by cases b <;> decide

/-- A flag is 0 or 1. -/
theorem flagByte_cases (b : Bool) : flagByte b = 0x00#8 ∨ flagByte b = 0x01#8 := by cases b <;> decide

/-- R195: the collision bit of the drawing unit, over the cells of the grid. -/
theorem State.drawSprite_collision (s : State) (x y : RegIdx) (n : Nibble) :
    (s.drawSprite ((s.reg x).toNat % 64) ((s.reg y).toNat % 32) n.toNat).2 = true ↔
      ∃ cx cy, cx < 64 ∧ cy < 32 ∧ s.pixel cx cy = true ∧ s.spriteOver x y n cx cy = true := by
  rw [State.drawSprite, drawRows_collision]
  simp only [Bool.false_eq_true, false_or, ← State.spriteOver_eq]
  constructor
  · rintro ⟨cx, cy, hcell, hbit⟩
    obtain ⟨hcx, hcy⟩ := State.spriteOver_in_grid hbit
    exact ⟨cx, cy, hcx, hcy, hcell, hbit⟩
  · rintro ⟨cx, cy, -, -, hcell, hbit⟩
    exact ⟨cx, cy, hcell, hbit⟩

/-- Settles O47: each cell by `drawRows_cell`, the flag by `State.drawSprite_collision`, written after the
framebuffer. -/
theorem drawXorsTheClippedSprite : Obligations.DrawXorsTheClippedSprite := by
  intro x y n
  refine ⟨decodeWord_of_eq_encode (RowOfEncoding.draw x y n) rfl, fun s => ?_⟩
  obtain ⟨drawn, hdrawn⟩ : ∃ drawn, drawn = s.drawSprite ((s.reg x).toNat % 64) ((s.reg y).toNat % 32) n.toNat :=
    ⟨_, rfl⟩
  have hexec : exec (.draw x y n) s = .next ((s.setFb drawn.1).setReg flagReg (flagByte drawn.2)) := by rw [hdrawn]; rfl
  have hflag : ((s.setFb drawn.1).setReg flagReg (flagByte drawn.2)).reg 0xF#4 = flagByte drawn.2 :=
    State.reg_setReg_same _ flagReg _
  refine ⟨_, hexec, fun cx cy _ _ => ?_, ?_, ?_, rfl, Frame.setFb_setFlag s _ _⟩
  · rw [State.spriteOver_eq, hdrawn]
    exact drawRows_cell _ _ _ _ _ cx cy
  · rw [hflag, flagByte_eq_one_iff, hdrawn, State.drawSprite_collision]
  · rw [hflag]
    exact flagByte_cases _

/-- Settles O48: the second draw lays the same bits over the cells (`State.spriteOver_congr`), and exclusive or with one
bit twice is the identity; a cell with a set bit is on after the first draw exactly when it was off before. -/
theorem drawTwiceRestoresTheScreen : Obligations.DrawTwiceRestoresTheScreen := by
  intro x y n s
  obtain ⟨-, hdraw⟩ := drawXorsTheClippedSprite x y n
  obtain ⟨t, hexec, hcells, -, -, -, -⟩ := hdraw s
  refine ⟨t, hexec, fun s' hfb hindex hx hy hbytes => ?_⟩
  obtain ⟨u, hexec', hcells', hflag, -, -, -⟩ := hdraw s'
  have hbits := State.spriteOver_congr hindex hx hy hbytes
  have hbefore (cx cy : Nat) (hcx : cx < 64) (hcy : cy < 32) :
      s'.pixel cx cy = (s.pixel cx cy ^^ s.spriteOver x y n cx cy) := by
    rw [← hcells cx cy hcx hcy, State.pixel, hfb, State.pixel]
  refine ⟨u, hexec', fun cx cy hcx hcy => ?_, hflag.trans ?_⟩
  · rw [hcells' cx cy hcx hcy, hbefore cx cy hcx hcy, hbits, Bool.xor_assoc, Bool.xor_self, Bool.xor_false]
  · refine exists_congr fun cx => exists_congr fun cy => and_congr_right fun hcx => and_congr_right fun hcy => ?_
    rw [hbefore cx cy hcx hcy, hbits]
    cases s.pixel cx cy <;> cases s.spriteOver x y n cx cy <;> decide

/-! ### The framebuffer output -/

/-- Digits of 64 bits each, the first the lowest. -/
theorem foldr_rows_lt {row : Nat → Nat} (hrow : ∀ y, row y < 2 ^ 64) (k n : Nat) :
    (List.range' k n).foldr (fun y acc => row y + acc * 2 ^ 64) 0 < 2 ^ (n * 64) := by
  induction n generalizing k with
  | zero => simp
  | succ n ih =>
    have hlow := hrow k
    have hhigh := ih (k + 1)
    rw [List.range'_succ, List.foldr_cons, Nat.add_mul, Nat.pow_add, Nat.one_mul]
    generalize (List.range' (k + 1) n).foldr _ 0 = acc at hhigh ⊢
    calc row k + acc * 2 ^ 64 < (acc + 1) * 2 ^ 64 := by omega
      _ ≤ 2 ^ (n * 64) * 2 ^ 64 := Nat.mul_le_mul_right _ hhigh

theorem testBit_foldr_rows {row : Nat → Nat} (hrow : ∀ y, row y < 2 ^ 64) (k n : Nat) {x y : Nat} (hx : x < 64)
    (hy : y < n) :
    ((List.range' k n).foldr (fun y acc => row y + acc * 2 ^ 64) 0).testBit (y * 64 + x) = (row (k + y)).testBit x := by
  induction n generalizing k y with
  | zero => omega
  | succ n ih =>
    rw [List.range'_succ, List.foldr_cons, Nat.add_comm (row k), Nat.mul_comm _ (2 ^ 64),
      Nat.testBit_two_pow_mul_add _ (hrow k)]
    cases y with
    | zero => simp [hx]
    | succ y =>
      rw [if_neg (by omega), show (y + 1) * 64 + x - 64 = y * 64 + x by omega, ih (k + 1) (by omega),
        Nat.add_assoc, Nat.add_comm 1 y]

/-- Row y of the framebuffer as a number, 0 below the grid. -/
def State.rowNumber (s : State) (y : Nat) : Nat := if h : y < 32 then (s.fb[y]'h).toNat else 0

theorem State.rowNumber_lt (s : State) (y : Nat) : s.rowNumber y < 2 ^ 64 := by
  unfold State.rowNumber
  split
  · exact BitVec.isLt _
  · decide

/-- The output is the rows as digits. -/
theorem State.fbOut_eq (s : State) :
    s.fbOut = (List.range' 0 32).foldr (fun y acc => s.rowNumber y + acc * 2 ^ 64) 0 := by
  rw [State.fbOut, List.range_eq_range']
  rfl

theorem State.testBit_rowNumber (s : State) {x y : Nat} (hy : y < 32) : (s.rowNumber y).testBit x = s.pixel x y := by
  rw [State.rowNumber, dif_pos hy, State.pixel, Framebuffer.cell, dif_pos hy, BitVec.testBit_toNat]

/-- Settles O49: the output's digits in base 2^64 are the rows (`State.fbOut_eq`), and a row's bits are its cells. -/
theorem framebufferOutputIsRowMajor : Obligations.FramebufferOutputIsRowMajor := by
  intro s
  rw [State.fbOut_eq]
  have hlt := foldr_rows_lt s.rowNumber_lt 0 32
  rw [show 32 * 64 = 2048 from rfl] at hlt
  refine ⟨hlt, fun cx cy hcx hcy => ?_⟩
  rw [testBit_foldr_rows s.rowNumber_lt 0 32 hcx hcy, Nat.zero_add, State.testBit_rowNumber s hcy]

end Sys2Proof.Machine
end

section
/-! The assembler (30_encoding.md R95-R97, decision D23): it writes the well-formed instructions, each under the
mnemonic of its row. -/

namespace Sys2Proof

/-- The mnemonic of an instruction's row of R86. -/
def Instr.mnemonic : Instr → String
  | .clearScreen => "clear-screen"
  | .ret => "return"
  | .jump _ => "jump"
  | .call _ => "call"
  | .skipEqImm _ _ => "skip-eq-imm"
  | .skipNeImm _ _ => "skip-ne-imm"
  | .skipEqReg _ _ _ => "skip-eq-reg"
  | .loadImm _ _ => "load-imm"
  | .addImm _ _ => "add-imm"
  | .move _ _ => "move"
  | .orReg _ _ => "or"
  | .andReg _ _ => "and"
  | .xorReg _ _ => "xor"
  | .add _ _ => "add"
  | .sub _ _ => "sub"
  | .shiftRight _ _ => "shift-right"
  | .subReverse _ _ => "sub-reverse"
  | .shiftLeft _ _ => "shift-left"
  | .skipNeReg _ _ _ => "skip-ne-reg"
  | .loadIndex _ => "load-index"
  | .jumpOffset _ => "jump-offset"
  | .random _ _ => "random"
  | .draw _ _ _ => "draw"
  | .skipIfKey _ => "skip-if-key"
  | .skipIfNotKey _ => "skip-if-not-key"
  | .readDelay _ => "read-delay"
  | .waitKey _ => "wait-key"
  | .writeDelay _ => "write-delay"
  | .writeSound _ => "write-sound"
  | .addIndex _ => "add-index"
  | .fontAddress _ => "font-address"
  | .bcd _ => "bcd"
  | .storeRegs _ => "store-regs"
  | .loadRegs _ => "load-regs"

/-- A row makes instructions of its own mnemonic. -/
theorem opcodeRows_mnemonic : ∀ r ∈ opcodeRows, ∀ w, (r.make w).mnemonic = r.mnemonic := by
  simp only [opcodeRows, opcodeRowsLow, opcodeRowsAlu, opcodeRowsHigh, opcodeRowsMisc, List.cons_append,
    List.nil_append, List.forall_mem_cons, List.not_mem_nil, false_implies, implies_true, and_true]
  and_intros <;> exact fun _ => rfl

/-- The operands that write a well-formed instruction (R95), registers first. -/
def Instr.operands : Instr → List Machine.AsmOperand
  | .clearScreen | .ret => []
  | .jump nnn | .call nnn | .loadIndex nnn | .jumpOffset nnn => [.num nnn.toNat]
  | .skipEqImm x nn | .skipNeImm x nn | .loadImm x nn | .addImm x nn | .random x nn => [.reg x, .num nn.toNat]
  | .skipEqReg x y _ | .skipNeReg x y _ => [.reg x, .reg y]
  | .move x y | .orReg x y | .andReg x y | .xorReg x y | .add x y | .sub x y | .shiftRight x y | .subReverse x y
  | .shiftLeft x y => [.reg x, .reg y]
  | .draw x y n => [.reg x, .reg y, .num n.toNat]
  | .skipIfKey x | .skipIfNotKey x | .readDelay x | .waitKey x | .writeDelay x | .writeSound x | .addIndex x
  | .fontAddress x | .bcd x | .storeRegs x | .loadRegs x => [.reg x]

end Sys2Proof
end

section
/-! The assembler's two directions. -/

namespace Sys2Proof.Machine

theorem mnemonicOf_eq (i : Instr) : mnemonicOf i = some i.mnemonic := by
  obtain ⟨r, hr, hf⟩ := Option.map_eq_some_iff.mp (decodeOfEncode i)
  rw [mnemonicOf, hr, Option.map_some, ← hf, opcodeRows_mnemonic r (List.mem_of_find?_eq_some hr)]

@[simp] theorem asmField_toNat {w : Nat} (v : BitVec w) : asmField w v.toNat = .ok v := by
  rw [asmField, if_pos v.isLt, BitVec.ofNat_toNat, BitVec.setWidth_eq]

/-- A row that is found has the mnemonic and stands in the table. -/
theorem asmLookup_ok {α : Type} {m : List Char} {table : List (String × α)} {f : α} (h : asmLookup m table = .ok f) :
    ∃ row ∈ table, row.1.toList = m ∧ row.2 = f := by
  rw [asmLookup] at h
  split at h
  · next row hrow =>
    cases h
    exact ⟨row, List.mem_of_find?_eq_some hrow, by simpa using List.find?_some hrow, rfl⟩
  · cases h

/-- A bind that answers has two answers. -/
theorem bind_ok {ε α β : Type} {x : Except ε α} {f : α → Except ε β} {b : β} (h : x >>= f = .ok b) :
    ∃ a, x = .ok a ∧ f a = .ok b := by
  cases x with
  | error e => cases h
  | ok a => exact ⟨a, rfl, h⟩

/-! ### A mnemonic with operands of each kind -/

section Forms

variable {m : List Char} {x y : RegIdx}

theorem asmInstr_addr {f : Addr → Instr} {nnn : Addr} (h : asmLookup m asmAddr = .ok f) :
    asmInstr m [.num nnn.toNat] = .ok (f nnn) := by
  simp only [asmInstr, h, asmField_toNat]
  rfl

theorem asmInstr_reg {f : RegIdx → Instr} (h : asmLookup m asmReg = .ok f) : asmInstr m [.reg x] = .ok (f x) := by
  simp only [asmInstr, h]
  rfl

theorem asmInstr_regImm {f : RegIdx → Byte → Instr} {nn : Byte} (h : asmLookup m asmRegImm = .ok f) :
    asmInstr m [.reg x, .num nn.toNat] = .ok (f x nn) := by
  simp only [asmInstr, h, asmField_toNat]
  rfl

theorem asmInstr_regReg {f : RegIdx → RegIdx → Instr} (h : asmLookup m asmRegReg = .ok f) :
    asmInstr m [.reg x, .reg y] = .ok (f x y) := by
  simp only [asmInstr, h]
  rfl

theorem asmInstr_regRegNibble {f : RegIdx → RegIdx → Nibble → Instr} {n : Nibble}
    (h : asmLookup m asmRegRegNibble = .ok f) : asmInstr m [.reg x, .reg y, .num n.toNat] = .ok (f x y n) := by
  simp only [asmInstr, h, asmField_toNat]
  rfl

end Forms

/-- A well-formed instruction is written by its own mnemonic and operands. -/
theorem asmInstr_of_wellFormed {i : Instr} (h : i.wellFormed = true) :
    asmInstr i.mnemonic.toList i.operands = .ok i := by
  cases i with
  | clearScreen | ret => rfl
  | jump | call | loadIndex | jumpOffset =>
    rw [Instr.mnemonic]
    exact asmInstr_addr rfl
  | skipEqImm | skipNeImm | loadImm | addImm | random =>
    rw [Instr.mnemonic]
    exact asmInstr_regImm rfl
  | skipEqReg x y n =>
    obtain rfl : n = 0#4 := beq_iff_eq.mp h
    rw [Instr.mnemonic]
    exact asmInstr_regReg (f := fun x y => .skipEqReg x y 0#4) rfl
  | skipNeReg x y n =>
    obtain rfl : n = 0#4 := beq_iff_eq.mp h
    rw [Instr.mnemonic]
    exact asmInstr_regReg (f := fun x y => .skipNeReg x y 0#4) rfl
  | move | orReg | andReg | xorReg | add | sub | shiftRight | subReverse | shiftLeft =>
    rw [Instr.mnemonic]
    exact asmInstr_regReg rfl
  | draw =>
    rw [Instr.mnemonic]
    exact asmInstr_regRegNibble rfl
  | skipIfKey | skipIfNotKey | readDelay | waitKey | writeDelay | writeSound | addIndex | fontAddress | bcd | storeRegs
  | loadRegs =>
    rw [Instr.mnemonic]
    exact asmInstr_reg rfl

/-! ### What the assembler can write -/

/-- A well-formed instruction of the mnemonic `name`. -/
abbrev WrittenAs (name : String) (i : Instr) : Prop := i.wellFormed = true ∧ i.mnemonic = name

theorem asmBare_written : ∀ row ∈ asmBare, WrittenAs row.1 row.2 := by decide

theorem asmAddr_written : ∀ row ∈ asmAddr, ∀ nnn, WrittenAs row.1 (row.2 nnn) := by
  simp only [asmAddr, List.forall_mem_cons, List.not_mem_nil, false_implies, implies_true, and_true]
  and_intros <;> exact fun _ => ⟨rfl, rfl⟩

theorem asmReg_written : ∀ row ∈ asmReg, ∀ x, WrittenAs row.1 (row.2 x) := by
  simp only [asmReg, List.forall_mem_cons, List.not_mem_nil, false_implies, implies_true, and_true]
  and_intros <;> exact fun _ => ⟨rfl, rfl⟩

theorem asmRegImm_written : ∀ row ∈ asmRegImm, ∀ x nn, WrittenAs row.1 (row.2 x nn) := by
  simp only [asmRegImm, List.forall_mem_cons, List.not_mem_nil, false_implies, implies_true, and_true]
  and_intros <;> exact fun _ _ => ⟨rfl, rfl⟩

theorem asmRegReg_written : ∀ row ∈ asmRegReg, ∀ x y, WrittenAs row.1 (row.2 x y) := by
  simp only [asmRegReg, List.forall_mem_cons, List.not_mem_nil, false_implies, implies_true, and_true]
  and_intros <;> exact fun _ _ => ⟨rfl, rfl⟩

theorem asmRegRegNibble_written : ∀ row ∈ asmRegRegNibble, ∀ x y n, WrittenAs row.1 (row.2 x y n) := by
  simp only [asmRegRegNibble, List.forall_mem_cons, List.not_mem_nil, false_implies, implies_true, and_true]
  exact fun _ _ _ => ⟨rfl, rfl⟩

/-- Whatever the assembler writes is a well-formed instruction of the mnemonic given. -/
theorem written_of_asmInstr {m : List Char} {operands : List AsmOperand} {i : Instr}
    (h : asmInstr m operands = .ok i) : ∃ name, name.toList = m ∧ WrittenAs name i := by
  unfold asmInstr at h
  split at h
  · obtain ⟨row, hrow, rfl, rfl⟩ := asmLookup_ok h
    exact ⟨_, rfl, asmBare_written row hrow⟩
  · obtain ⟨f, hf, h⟩ := bind_ok h
    obtain ⟨nnn, -, h⟩ := bind_ok h
    obtain ⟨row, hrow, rfl, rfl⟩ := asmLookup_ok hf
    cases h
    exact ⟨_, rfl, asmAddr_written row hrow nnn⟩
  · next x =>
    obtain ⟨f, hf, h⟩ := bind_ok h
    obtain ⟨row, hrow, rfl, rfl⟩ := asmLookup_ok hf
    cases h
    exact ⟨_, rfl, asmReg_written row hrow x⟩
  · next x _ =>
    obtain ⟨f, hf, h⟩ := bind_ok h
    obtain ⟨nn, -, h⟩ := bind_ok h
    obtain ⟨row, hrow, rfl, rfl⟩ := asmLookup_ok hf
    cases h
    exact ⟨_, rfl, asmRegImm_written row hrow x nn⟩
  · next x y =>
    obtain ⟨f, hf, h⟩ := bind_ok h
    obtain ⟨row, hrow, rfl, rfl⟩ := asmLookup_ok hf
    cases h
    exact ⟨_, rfl, asmRegReg_written row hrow x y⟩
  · next x y _ =>
    obtain ⟨f, hf, h⟩ := bind_ok h
    obtain ⟨n, -, h⟩ := bind_ok h
    obtain ⟨row, hrow, rfl, rfl⟩ := asmLookup_ok hf
    cases h
    exact ⟨_, rfl, asmRegRegNibble_written row hrow x y n⟩
  · cases h

/-- Settles O7: a well-formed instruction is written by its own mnemonic and operands (`asmInstr_of_wellFormed`), and
whatever is written is one, of the mnemonic given (`written_of_asmInstr`). -/
theorem assemblerWritesTheWellFormed : Obligations.AssemblerWritesTheWellFormed := by
  refine ⟨fun i => ⟨fun h => ⟨_, _, asmInstr_of_wellFormed h⟩, ?_⟩, fun m operands i h => ?_⟩
  · rintro ⟨m, operands, h⟩
    obtain ⟨name, -, hwf, -⟩ := written_of_asmInstr h
    exact hwf
  · obtain ⟨name, rfl, -, rfl⟩ := written_of_asmInstr h
    rw [mnemonicOf_eq, Option.map_some]

end Sys2Proof.Machine
end
